-- ==== Sys2Proof/Word.lean ====
section
/-! DEFINITION. The word types of the machine: 32-bit words and addresses (R10, R11), 16-bit halfwords (R2), bytes,
and the numbers by which instructions name general registers (R20, R25). -/

namespace Sys2Proof

/-- A register value, an address or a wide instruction word (R10, R11). -/
abbrev Word := BitVec 32

/-- A narrow instruction word (R2). -/
abbrev Half := BitVec 16

/-- The smallest addressable unit (R11). -/
abbrev Byte := BitVec 8

/-- The number of a general register, r0 to r15 (R20): what a 4-bit register field names (R25). -/
abbrev Reg := Fin 16

/-- What a 3-bit register field of the narrow form names: r0 to r7 (R25). -/
abbrev LowReg := Fin 8

/-- A low register as one of the sixteen. -/
def LowReg.toReg (r : LowReg) : Reg := ⟨r.val, by omega⟩

/-- The high register r8 to r15 that format 5 names by three bits under a set H bit (R123). -/
def LowReg.toHigh (r : LowReg) : Reg := ⟨r.val + 8, by omega⟩

end Sys2Proof
end

