-- ==== Sys2Proof/Machine/Bits.lean ====
section
/-! DEFINITION. Bit fields, sign extension and byte order: the helpers every other definition of the model reads bits with
(R13, R65). -/

namespace Sys2Proof

/-- A word of `n` bits that holds the field `x` with its low bit at bit `lo`, zero elsewhere (R13). -/
def putField (n lo : Nat) {k : Nat} (x : BitVec k) : BitVec n := x.setWidth n <<< lo

/-- A one-bit field. -/
def putBit (n lo : Nat) (b : Bool) : BitVec n := putField n lo (BitVec.ofBool b)

/-- `zext_N`: an unsigned field read at the width of a register (R13). -/
def zext {k : Nat} (x : BitVec k) : Word := x.setWidth 32

/-- `sext_N`: a two's-complement field read at the width of a register (R13). -/
def sext {k : Nat} (x : BitVec k) : Word := x.signExtend 32

/-- The low `n` bytes of a value, byte 0 first: the order in which a little-endian access places them (R65). -/
def splitBytes (v : Word) : Nat → List Byte
  | 0 => []
  | n + 1 => v.setWidth 8 :: splitBytes (v >>> 8) n

/-- The value of a byte list, its first byte in bits 7:0 (R65). -/
def joinBytes : List Byte → Word
  | [] => 0
  | b :: bs => zext b ||| (joinBytes bs <<< 8)

end Sys2Proof
end

