-- ==== Sys2Proof/Machine/Psr.lean ====
section
/-! DEFINITION. The layout of a program status register (R30), the seven modes and the banks they select (R21, R22). No
instruction moves a status register to or from a general register (R33, R184), so it is held field by field;
`Psr.toWord` and `Psr.ofWord` give the 32-bit reading that the snapshot port uses (R480). -/

namespace Sys2Proof

/-- A program status register: CPSR or one of the five SPSRs (R30, R33). -/
structure Psr where
  /-- bit 31: result was negative -/
  n : Bool
  /-- bit 30: result was zero -/
  z : Bool
  /-- bit 29: carry, NOT-borrow or shifter carry-out -/
  c : Bool
  /-- bit 28: signed overflow -/
  v : Bool
  /-- bits 27:8: plain storage without function (R34) -/
  reserved : BitVec 20
  /-- bit 7: interrupt-disable bit, set by exception entry and read by nothing (R433) -/
  i : Bool
  /-- bit 6: fast-interrupt-disable bit, read by nothing -/
  f : Bool
  /-- bit 5: width-mode bit, 0 wide and 1 narrow (R31) -/
  t : Bool
  /-- bits 4:0: mode-select bits; an SPSR may hold a number that is no mode (R38) -/
  m : BitVec 5
  deriving DecidableEq, Repr

/-- The seven modes of R21. -/
inductive Mode where
  | usr | fiq | irq | svc | abt | und | sys
  deriving DecidableEq, Repr

/-- The copies of r13 and r14 (R22); SYS shares `usr`. -/
inductive Bank where
  | usr | fiq | irq | svc | abt | und
  deriving DecidableEq, Repr

/-- The modes that have a saved status register (R33). -/
inductive ExcMode where
  | fiq | irq | svc | abt | und
  deriving DecidableEq, Repr

/-- The mode number `M` (R21). -/
def Mode.bits : Mode → BitVec 5
  | .usr => 0b10000#5
  | .fiq => 0b10001#5
  | .irq => 0b10010#5
  | .svc => 0b10011#5
  | .abt => 0b10111#5
  | .und => 0b11011#5
  | .sys => 0b11111#5

/-- The mode a mode number names; the other 25 values are illegal (R21, R38). -/
def Mode.ofBits (m : BitVec 5) : Option Mode :=
  if m = 0b10000#5 then some .usr
  else if m = 0b10001#5 then some .fiq
  else if m = 0b10010#5 then some .irq
  else if m = 0b10011#5 then some .svc
  else if m = 0b10111#5 then some .abt
  else if m = 0b11011#5 then some .und
  else if m = 0b11111#5 then some .sys
  else none

/-- The bank of r13 and r14 of a mode (R21). -/
def Mode.bank : Mode → Bank
  | .usr => .usr
  | .fiq => .fiq
  | .irq => .irq
  | .svc => .svc
  | .abt => .abt
  | .und => .und
  | .sys => .usr

/-- The saved status register of a mode; USR and SYS have none (R33). -/
def Mode.exc : Mode → Option ExcMode
  | .usr => none
  | .fiq => some .fiq
  | .irq => some .irq
  | .svc => some .svc
  | .abt => some .abt
  | .und => some .und
  | .sys => none

/-- An exception mode as a mode. -/
def ExcMode.toMode : ExcMode → Mode
  | .fiq => .fiq
  | .irq => .irq
  | .svc => .svc
  | .abt => .abt
  | .und => .und

/-- The bank a mode number selects. A number that is no mode cannot be in CPSR (R38, R481); for it the `usr` bank
stands (log entry 9). -/
def bankOf (m : BitVec 5) : Bank :=
  match Mode.ofBits m with
  | some md => md.bank
  | none => .usr

/-- Whether the mode number selects the `fiq` copies of r8 to r12 (R21, R24). -/
def isFiq (m : BitVec 5) : Bool := m == 0b10001#5

/-- A status register of 32 zeros; its mode field is no mode (R38, R50). -/
def Psr.zero : Psr where
  n := false
  z := false
  c := false
  v := false
  reserved := 0
  i := false
  f := false
  t := false
  m := 0

/-- The 32 bits of a status register at the positions of R30. -/
def Psr.toWord (p : Psr) : Word :=
  putBit 32 31 p.n ||| putBit 32 30 p.z ||| putBit 32 29 p.c ||| putBit 32 28 p.v ||| putField 32 8 p.reserved |||
    putBit 32 7 p.i ||| putBit 32 6 p.f ||| putBit 32 5 p.t ||| putField 32 0 p.m

/-- The status register that 32 bits stand for (R30). -/
def Psr.ofWord (w : Word) : Psr where
  n := w.getLsbD 31
  z := w.getLsbD 30
  c := w.getLsbD 29
  v := w.getLsbD 28
  reserved := w.extractLsb' 8 20
  i := w.getLsbD 7
  f := w.getLsbD 6
  t := w.getLsbD 5
  m := w.extractLsb' 0 5

end Sys2Proof
end

