-- ==== Sys2Proof/Config.lean ====
section
/-! DEFINITION. The parameters the spec leaves to a model (R10 to R12) with the spec's defaults, and the free values, which are
opaque constants that nothing in Lean can evaluate (R17 `draw`). A `Config` is carried in State as a field that no step
writes, so that every claim about `step` holds for every value of the parameters. -/

namespace Sys2Proof

/-- The six kinds of region (R67). -/
inductive RegionKind where
  /-- reads the last byte stored, or the initial content -/
  | ram
  /-- reads fixed configured content, drops writes -/
  | rom
  /-- the interrupt-controller registers (R423 to R427) -/
  | intc
  /-- owned by the environment: reads are free values, writes are delivered to it -/
  | device
  /-- ROM-like open bus: reads 0xFF, drops writes -/
  | open1
  /-- reads 0x00, drops writes; also every address that no region owns -/
  | open0
  deriving DecidableEq, Repr

/-- One range of the memory map, both ends included (R70). -/
structure Region where
  lo : Nat
  hi : Nat
  kind : RegionKind
  deriving DecidableEq, Repr

/-- `MISALIGN_POLICY` (R73). -/
inductive MisalignPolicy where
  | refuse | forceAlign | rotate
  deriving DecidableEq, Repr

/-- `SWI_MODE` (R12, R301): the mode a software interrupt enters. -/
inductive SwiMode where
  | svc | irq
  deriving DecidableEq, Repr

/-- The categories a decoded instruction can carry (R133). -/
inductive Category where
  | dataProcessing | multiply | multiplyLong | swap | branchExchange | branch | halfwordTransfer | singleTransfer
  | blockTransfer | softwareInterrupt
  | narrow1 | narrow2 | narrow3 | narrow4 | narrow5 | narrow6 | narrow7 | narrow8 | narrow9 | narrow10
  | narrow11 | narrow12 | narrow13 | narrow14 | narrow15 | narrow16 | narrow17 | narrow18 | narrow19
  deriving DecidableEq, Repr

/-- `COST` (R12, R492): the cycle costs the source document does not state. -/
structure Cost where
  /-- data processing; narrow formats 1 to 5, 12 and 13 -/
  dataProc : Nat
  /-- what a register-held shift amount adds -/
  regShift : Nat
  umull : Nat
  umlal : Nat
  smull : Nat
  smlal : Nat
  ldr : Nat
  ldrb : Nat
  ldrh : Nat
  ldrsb : Nat
  ldrsh : Nat
  str : Nat
  strb : Nat
  strh : Nat
  /-- what a load into r15 adds (R262, R286) -/
  loadPc : Nat
  /-- LDM costs this plus one for each register -/
  ldmBase : Nat
  /-- STM costs this plus one for each register -/
  stmBase : Nat
  swap : Nat
  /-- the first half of the narrow branch with link -/
  blFirst : Nat
  deriving DecidableEq, Repr

/-- The default cost table of R492. -/
def Cost.default : Cost where
  dataProc := 1
  regShift := 1
  umull := 4
  umlal := 5
  smull := 4
  smlal := 5
  ldr := 3
  ldrb := 3
  ldrh := 3
  ldrsb := 3
  ldrsh := 3
  str := 2
  strb := 2
  strh := 2
  loadPc := 2
  ldmBase := 2
  stmBase := 1
  swap := 4
  blFirst := 1

/-- The parameters of R12. -/
structure Config where
  /-- `RESET_SP` -/
  resetSp : Word
  /-- `RESET_CPSR`, which holds `RESET_MODE` -/
  resetCpsr : Psr
  /-- `VEC_IRQ` -/
  vecIrq : Word
  /-- `VEC_SWI` -/
  vecSwi : Word
  /-- `SWI_MODE` -/
  swiMode : SwiMode
  /-- `MEMMAP`: the first range that holds an address gives its kind -/
  memMap : List Region
  /-- `ADDR_IE` -/
  addrIe : Word
  /-- `ADDR_IF` -/
  addrIf : Word
  /-- `ADDR_IME` -/
  addrIme : Word
  /-- `ADDR_HALTCNT` -/
  addrHaltcnt : Word
  /-- `MISALIGN_POLICY` -/
  misalign : MisalignPolicy
  /-- `COND_NV` -/
  condNv : Bool
  /-- `UNIMPLEMENTED_SET` -/
  unimplemented : List Category
  /-- `COST` -/
  cost : Cost
  /-- `ENV_MAY_WRITE_RAM` -/
  envMayWriteRam : Bool
  deriving DecidableEq, Repr

/-- The number of bytes of the cartridge range 0x08000000-0x0DFFFFFF (R70). -/
def cartRangeBytes : Nat := 0x06000000

/-- The default memory map of R70 with the I/O split of R71, for a cartridge image of `cartBytes` bytes and a save memory
with or without a backing store. Every address that no range holds is OPEN0 (R68). DESIGN CHOICE: the spec gives no case
for an image longer than its range; the bytes of the image beyond the range are not mapped, so that the save memory and the
unowned addresses above keep the kinds of R70 (log entry 19; unsafe for such an image alone). -/
def gbaMap (cartBytes : Nat) (saveBacked : Bool) : List Region :=
  [⟨0x00000000, 0x00003FFF, .rom⟩,
   ⟨0x02000000, 0x0203FFFF, .ram⟩,
   ⟨0x03000000, 0x03007FFF, .ram⟩,
   ⟨0x04000000, 0x0400005F, .device⟩,
   ⟨0x04000060, 0x040000AF, .device⟩,
   ⟨0x040000B0, 0x040000DF, .device⟩,
   ⟨0x04000100, 0x0400010F, .device⟩,
   ⟨0x04000120, 0x0400012F, .device⟩,
   ⟨0x04000130, 0x04000133, .device⟩,
   ⟨0x04000134, 0x0400015F, .device⟩,
   ⟨0x04000200, 0x04000201, .intc⟩,
   ⟨0x04000202, 0x04000203, .intc⟩,
   ⟨0x04000204, 0x04000207, .device⟩,
   ⟨0x04000208, 0x0400020B, .intc⟩,
   ⟨0x04000300, 0x04000300, .device⟩,
   ⟨0x04000301, 0x04000301, .intc⟩,
   ⟨0x05000000, 0x050003FF, .device⟩,
   ⟨0x06000000, 0x06017FFF, .device⟩,
   ⟨0x07000000, 0x070003FF, .device⟩] ++
  (if cartBytes = 0 then [] else [⟨0x08000000, 0x08000000 + (min cartBytes cartRangeBytes - 1), .rom⟩]) ++
  [⟨0x08000000, 0x0DFFFFFF, .open1⟩,
   ⟨0x0E000000, 0x0E00FFFF, if saveBacked then .device else .open1⟩]

/-- The status register in which only the mode field is not zero. -/
def Psr.ofMode (md : Mode) : Psr where
  n := false
  z := false
  c := false
  v := false
  reserved := 0
  i := false
  f := false
  t := false
  m := md.bits

/-- The spec's defaults (R12); no cartridge image and no save memory are present (log entry 6). -/
def Config.default : Config where
  resetSp := 0x03007F00
  resetCpsr := Psr.ofMode .sys
  vecIrq := 0x00000018
  vecSwi := 0x00000008
  swiMode := .svc
  memMap := gbaMap 0 false
  addrIe := 0x04000200
  addrIf := 0x04000202
  addrIme := 0x04000208
  addrHaltcnt := 0x04000301
  misalign := .refuse
  condNv := false
  unimplemented := []
  cost := Cost.default
  envMayWriteRam := false

/-- Every cost is a positive number (R9, R491). -/
def Cost.wf (c : Cost) : Bool :=
  0 < c.dataProc && 0 < c.umull && 0 < c.umlal && 0 < c.smull && 0 < c.smlal && 0 < c.ldr && 0 < c.ldrb &&
    0 < c.ldrh && 0 < c.ldrsb && 0 < c.ldrsh && 0 < c.str && 0 < c.strb && 0 < c.strh && 0 < c.swap && 0 < c.blFirst

/-! ### Free values (R17)

Each is applied to the number of the draw, which State counts, so that no two draws are known to agree. -/

/-- `draw(8)`: the byte a DEVICE region returns (R62, R67). -/
opaque Config.deviceByte (draw : Nat) (addr : Word) : Byte

/-- The interrupt types the environment requests in answer to a byte written to a DEVICE region (R63, R429). -/
opaque Config.deviceRequests (draw : Nat) (addr : Word) (b : Byte) : BitVec 14

/-- `draw(1)`: the C flag after a flag-setting multiply (R213). -/
opaque Config.mulCarry (draw : Nat) : Bool

/-- `draw(1)`: the V flag after a flag-setting multiply (R213). -/
opaque Config.mulOverflow (draw : Nat) : Bool

end Sys2Proof
end

