-- ==== Sys2Proof/Syntax.lean ====
section
/-! DEFINITION. The instructions: one constructor for each row of spec/opcode_table.json, in the table's order, carrying the
fields of its format (R104 to R114, R120 to R130). Fields the hardware ignores are kept, so that a constructor stands for
one word and no bit of it is lost. The names of the narrow form begin with `t`. The rows `NotRecognized` carry the word the
decoder was given (R101, R304). -/

namespace Sys2Proof

/-- The condition field (R115, R150). -/
inductive Cond where
  | eq | ne | cs | cc | mi | pl | vs | vc | hi | ls | ge | lt | gt | le | al | nv
  deriving DecidableEq, Repr

/-- The type of a shift (R105). -/
inductive ShiftType where
  | lsl | lsr | asr | ror
  deriving DecidableEq, Repr

/-- The sixteen data-processing operations, in the order of their opcodes (R104). -/
inductive AluOp where
  | and | eor | sub | rsb | add | adc | sbc | rsc | tst | teq | cmp | cmn | orr | mov | bic | mvn
  deriving DecidableEq, Repr

/-- The three forms of `operand2` (R105). -/
inductive Operand2 where
  /-- an 8-bit immediate rotated right by twice `rotate` -/
  | imm (rotate : BitVec 4) (imm8 : BitVec 8)
  /-- a register shifted by an immediate amount -/
  | regImm (amount : BitVec 5) (ty : ShiftType) (rm : Reg)
  /-- a register shifted by a register-held amount -/
  | regReg (rs : Reg) (ty : ShiftType) (rm : Reg)
  deriving DecidableEq, Repr

/-- The instructions of both forms. `c` is the condition, `s` the flag-update bit, `p`, `u`, `w` the addressing bits of
R112 and R113. -/
inductive Instr where
  -- wide form, rows 1 to 3 of R103: software interrupt, branch-exchange, branches
  | swi (c : Cond) (comment : BitVec 24)
  | bx (c : Cond) (rm : Reg)
  | b (c : Cond) (offset : BitVec 24)
  | bl (c : Cond) (offset : BitVec 24)
  -- rows 4 to 6: multiplies and swaps
  | mul (c : Cond) (s : Bool) (rd rn rs rm : Reg)
  | mla (c : Cond) (s : Bool) (rd rn rs rm : Reg)
  | umull (c : Cond) (s : Bool) (rdHi rdLo rs rm : Reg)
  | umlal (c : Cond) (s : Bool) (rdHi rdLo rs rm : Reg)
  | smull (c : Cond) (s : Bool) (rdHi rdLo rs rm : Reg)
  | smlal (c : Cond) (s : Bool) (rdHi rdLo rs rm : Reg)
  | swp (c : Cond) (rn rd rm : Reg)
  | swpb (c : Cond) (rn rd rm : Reg)
  -- row 7: halfword and signed transfers
  | ldrhImm (c : Cond) (p u w : Bool) (rn rd : Reg) (offset : BitVec 8)
  | ldrhReg (c : Cond) (p u w : Bool) (rn rd rm : Reg)
  | ldrsbImm (c : Cond) (p u w : Bool) (rn rd : Reg) (offset : BitVec 8)
  | ldrsbReg (c : Cond) (p u w : Bool) (rn rd rm : Reg)
  | ldrshImm (c : Cond) (p u w : Bool) (rn rd : Reg) (offset : BitVec 8)
  | ldrshReg (c : Cond) (p u w : Bool) (rn rd rm : Reg)
  | strhImm (c : Cond) (p u w : Bool) (rn rd : Reg) (offset : BitVec 8)
  | strhReg (c : Cond) (p u w : Bool) (rn rd rm : Reg)
  /-- the words of row 7 that are no instruction (R111, R116 c and d) -/
  | nrHalfwordSpace (word : Word)
  -- row 8: data processing
  | andImm (c : Cond) (s : Bool) (rn rd : Reg) (rotate : BitVec 4) (imm8 : BitVec 8)
  | andRegImm (c : Cond) (s : Bool) (rn rd : Reg) (amount : BitVec 5) (ty : ShiftType) (rm : Reg)
  | andRegReg (c : Cond) (s : Bool) (rn rd rs : Reg) (ty : ShiftType) (rm : Reg)
  | eorImm (c : Cond) (s : Bool) (rn rd : Reg) (rotate : BitVec 4) (imm8 : BitVec 8)
  | eorRegImm (c : Cond) (s : Bool) (rn rd : Reg) (amount : BitVec 5) (ty : ShiftType) (rm : Reg)
  | eorRegReg (c : Cond) (s : Bool) (rn rd rs : Reg) (ty : ShiftType) (rm : Reg)
  | subImm (c : Cond) (s : Bool) (rn rd : Reg) (rotate : BitVec 4) (imm8 : BitVec 8)
  | subRegImm (c : Cond) (s : Bool) (rn rd : Reg) (amount : BitVec 5) (ty : ShiftType) (rm : Reg)
  | subRegReg (c : Cond) (s : Bool) (rn rd rs : Reg) (ty : ShiftType) (rm : Reg)
  | rsbImm (c : Cond) (s : Bool) (rn rd : Reg) (rotate : BitVec 4) (imm8 : BitVec 8)
  | rsbRegImm (c : Cond) (s : Bool) (rn rd : Reg) (amount : BitVec 5) (ty : ShiftType) (rm : Reg)
  | rsbRegReg (c : Cond) (s : Bool) (rn rd rs : Reg) (ty : ShiftType) (rm : Reg)
  | addImm (c : Cond) (s : Bool) (rn rd : Reg) (rotate : BitVec 4) (imm8 : BitVec 8)
  | addRegImm (c : Cond) (s : Bool) (rn rd : Reg) (amount : BitVec 5) (ty : ShiftType) (rm : Reg)
  | addRegReg (c : Cond) (s : Bool) (rn rd rs : Reg) (ty : ShiftType) (rm : Reg)
  | adcImm (c : Cond) (s : Bool) (rn rd : Reg) (rotate : BitVec 4) (imm8 : BitVec 8)
  | adcRegImm (c : Cond) (s : Bool) (rn rd : Reg) (amount : BitVec 5) (ty : ShiftType) (rm : Reg)
  | adcRegReg (c : Cond) (s : Bool) (rn rd rs : Reg) (ty : ShiftType) (rm : Reg)
  | sbcImm (c : Cond) (s : Bool) (rn rd : Reg) (rotate : BitVec 4) (imm8 : BitVec 8)
  | sbcRegImm (c : Cond) (s : Bool) (rn rd : Reg) (amount : BitVec 5) (ty : ShiftType) (rm : Reg)
  | sbcRegReg (c : Cond) (s : Bool) (rn rd rs : Reg) (ty : ShiftType) (rm : Reg)
  | rscImm (c : Cond) (s : Bool) (rn rd : Reg) (rotate : BitVec 4) (imm8 : BitVec 8)
  | rscRegImm (c : Cond) (s : Bool) (rn rd : Reg) (amount : BitVec 5) (ty : ShiftType) (rm : Reg)
  | rscRegReg (c : Cond) (s : Bool) (rn rd rs : Reg) (ty : ShiftType) (rm : Reg)
  | tstImm (c : Cond) (s : Bool) (rn rd : Reg) (rotate : BitVec 4) (imm8 : BitVec 8)
  | tstRegImm (c : Cond) (s : Bool) (rn rd : Reg) (amount : BitVec 5) (ty : ShiftType) (rm : Reg)
  | tstRegReg (c : Cond) (s : Bool) (rn rd rs : Reg) (ty : ShiftType) (rm : Reg)
  | teqImm (c : Cond) (s : Bool) (rn rd : Reg) (rotate : BitVec 4) (imm8 : BitVec 8)
  | teqRegImm (c : Cond) (s : Bool) (rn rd : Reg) (amount : BitVec 5) (ty : ShiftType) (rm : Reg)
  | teqRegReg (c : Cond) (s : Bool) (rn rd rs : Reg) (ty : ShiftType) (rm : Reg)
  | cmpImm (c : Cond) (s : Bool) (rn rd : Reg) (rotate : BitVec 4) (imm8 : BitVec 8)
  | cmpRegImm (c : Cond) (s : Bool) (rn rd : Reg) (amount : BitVec 5) (ty : ShiftType) (rm : Reg)
  | cmpRegReg (c : Cond) (s : Bool) (rn rd rs : Reg) (ty : ShiftType) (rm : Reg)
  | cmnImm (c : Cond) (s : Bool) (rn rd : Reg) (rotate : BitVec 4) (imm8 : BitVec 8)
  | cmnRegImm (c : Cond) (s : Bool) (rn rd : Reg) (amount : BitVec 5) (ty : ShiftType) (rm : Reg)
  | cmnRegReg (c : Cond) (s : Bool) (rn rd rs : Reg) (ty : ShiftType) (rm : Reg)
  | orrImm (c : Cond) (s : Bool) (rn rd : Reg) (rotate : BitVec 4) (imm8 : BitVec 8)
  | orrRegImm (c : Cond) (s : Bool) (rn rd : Reg) (amount : BitVec 5) (ty : ShiftType) (rm : Reg)
  | orrRegReg (c : Cond) (s : Bool) (rn rd rs : Reg) (ty : ShiftType) (rm : Reg)
  | movImm (c : Cond) (s : Bool) (rn rd : Reg) (rotate : BitVec 4) (imm8 : BitVec 8)
  | movRegImm (c : Cond) (s : Bool) (rn rd : Reg) (amount : BitVec 5) (ty : ShiftType) (rm : Reg)
  | movRegReg (c : Cond) (s : Bool) (rn rd rs : Reg) (ty : ShiftType) (rm : Reg)
  | bicImm (c : Cond) (s : Bool) (rn rd : Reg) (rotate : BitVec 4) (imm8 : BitVec 8)
  | bicRegImm (c : Cond) (s : Bool) (rn rd : Reg) (amount : BitVec 5) (ty : ShiftType) (rm : Reg)
  | bicRegReg (c : Cond) (s : Bool) (rn rd rs : Reg) (ty : ShiftType) (rm : Reg)
  | mvnImm (c : Cond) (s : Bool) (rn rd : Reg) (rotate : BitVec 4) (imm8 : BitVec 8)
  | mvnRegImm (c : Cond) (s : Bool) (rn rd : Reg) (amount : BitVec 5) (ty : ShiftType) (rm : Reg)
  | mvnRegReg (c : Cond) (s : Bool) (rn rd rs : Reg) (ty : ShiftType) (rm : Reg)
  -- row 9: single transfers
  | ldrImm (c : Cond) (p u w : Bool) (rn rd : Reg) (offset : BitVec 12)
  | ldrReg (c : Cond) (p u w : Bool) (rn rd : Reg) (amount : BitVec 5) (ty : ShiftType) (rm : Reg)
  | ldrbImm (c : Cond) (p u w : Bool) (rn rd : Reg) (offset : BitVec 12)
  | ldrbReg (c : Cond) (p u w : Bool) (rn rd : Reg) (amount : BitVec 5) (ty : ShiftType) (rm : Reg)
  | strImm (c : Cond) (p u w : Bool) (rn rd : Reg) (offset : BitVec 12)
  | strReg (c : Cond) (p u w : Bool) (rn rd : Reg) (amount : BitVec 5) (ty : ShiftType) (rm : Reg)
  | strbImm (c : Cond) (p u w : Bool) (rn rd : Reg) (offset : BitVec 12)
  | strbReg (c : Cond) (p u w : Bool) (rn rd : Reg) (amount : BitVec 5) (ty : ShiftType) (rm : Reg)
  /-- the words of row 9 with `w[25] = w[4] = 1` (R116 b) -/
  | nrUndefinedSpace (word : Word)
  -- row 10: block transfers; `s` is the S bit of R113
  | ldm (c : Cond) (p u s w : Bool) (rn : Reg) (list : BitVec 16)
  | stm (c : Cond) (p u s w : Bool) (rn : Reg) (list : BitVec 16)
  /-- row 11: the coprocessor space (R116 a) -/
  | nrCoprocessorSpace (word : Word)
  -- narrow form: format 2
  | tAddReg (rn rs rd : LowReg)
  | tSubReg (rn rs rd : LowReg)
  | tAddImm3 (imm3 : BitVec 3) (rs rd : LowReg)
  | tSubImm3 (imm3 : BitVec 3) (rs rd : LowReg)
  -- format 1
  | tLslImm (offset5 : BitVec 5) (rs rd : LowReg)
  | tLsrImm (offset5 : BitVec 5) (rs rd : LowReg)
  | tAsrImm (offset5 : BitVec 5) (rs rd : LowReg)
  -- format 3
  | tMovImm (rd : LowReg) (imm8 : BitVec 8)
  | tCmpImm (rd : LowReg) (imm8 : BitVec 8)
  | tAddImm8 (rd : LowReg) (imm8 : BitVec 8)
  | tSubImm8 (rd : LowReg) (imm8 : BitVec 8)
  -- format 4
  | tAnd (rs rd : LowReg)
  | tEor (rs rd : LowReg)
  | tLsl (rs rd : LowReg)
  | tLsr (rs rd : LowReg)
  | tAsr (rs rd : LowReg)
  | tAdc (rs rd : LowReg)
  | tSbc (rs rd : LowReg)
  | tRor (rs rd : LowReg)
  | tTst (rs rd : LowReg)
  | tNeg (rs rd : LowReg)
  | tCmp (rs rd : LowReg)
  | tCmn (rs rd : LowReg)
  | tOrr (rs rd : LowReg)
  | tMul (rs rd : LowReg)
  | tBic (rs rd : LowReg)
  | tMvn (rs rd : LowReg)
  -- format 5: under `H1 = 1` the destination is `rd.toHigh` and the source any register; under `H1 = 0`, `H2 = 1` the
  -- destination is low and the source `rs.toHigh`
  | tAddHiH1 (rs : Reg) (rd : LowReg)
  | tAddHiH2 (rs : LowReg) (rd : LowReg)
  | tCmpHiH1 (rs : Reg) (rd : LowReg)
  | tCmpHiH2 (rs : LowReg) (rd : LowReg)
  | tMovHiH1 (rs : Reg) (rd : LowReg)
  | tMovHiH2 (rs : LowReg) (rd : LowReg)
  | tBx (rs : Reg)
  /-- the words of format 5 that are no instruction (R123) -/
  | nrHighRegisterSpace (half : Half)
  -- format 6
  | tLdrPc (rd : LowReg) (word8 : BitVec 8)
  -- formats 8 and 7
  | tStrhReg (ro rb rd : LowReg)
  | tLdsbReg (ro rb rd : LowReg)
  | tLdrhReg (ro rb rd : LowReg)
  | tLdshReg (ro rb rd : LowReg)
  | tStrReg (ro rb rd : LowReg)
  | tStrbReg (ro rb rd : LowReg)
  | tLdrReg (ro rb rd : LowReg)
  | tLdrbReg (ro rb rd : LowReg)
  -- formats 9 and 10
  | tStrImm (offset5 : BitVec 5) (rb rd : LowReg)
  | tLdrImm (offset5 : BitVec 5) (rb rd : LowReg)
  | tStrbImm (offset5 : BitVec 5) (rb rd : LowReg)
  | tLdrbImm (offset5 : BitVec 5) (rb rd : LowReg)
  | tStrhImm (offset5 : BitVec 5) (rb rd : LowReg)
  | tLdrhImm (offset5 : BitVec 5) (rb rd : LowReg)
  -- formats 11, 12 and 13
  | tStrSp (rd : LowReg) (word8 : BitVec 8)
  | tLdrSp (rd : LowReg) (word8 : BitVec 8)
  | tAddPc (rd : LowReg) (word8 : BitVec 8)
  | tAddSp (rd : LowReg) (word8 : BitVec 8)
  | tAddSpImm (sword7 : BitVec 7)
  | tSubSpImm (sword7 : BitVec 7)
  -- formats 14 and 15; `lr` is the R bit of PUSH
  | tPush (lr : Bool) (list : BitVec 8)
  | tPop (list : BitVec 8)
  | tPopPc (list : BitVec 8)
  | tStmia (rb : LowReg) (list : BitVec 8)
  | tLdmia (rb : LowReg) (list : BitVec 8)
  -- formats 17, 16, 18 and 19
  | tSwi (value8 : BitVec 8)
  /-- format 16 with condition 14 (R129) -/
  | nrCond14 (half : Half)
  | tBCond (c : Cond) (soffset8 : BitVec 8)
  | tB (offset11 : BitVec 11)
  | tBlFirst (offset11 : BitVec 11)
  | tBlSecond (offset11 : BitVec 11)
  /-- every other halfword (R131) -/
  | nrNarrow (half : Half)
  deriving DecidableEq, Repr

/-- The data-processing instruction of an operation and a form of its operand (R104, R105). -/
def Instr.dataProc (op : AluOp) (c : Cond) (s : Bool) (rn rd : Reg) : Operand2 → Instr
  | .imm rotate imm8 =>
    match op with
    | .and => .andImm c s rn rd rotate imm8
    | .eor => .eorImm c s rn rd rotate imm8
    | .sub => .subImm c s rn rd rotate imm8
    | .rsb => .rsbImm c s rn rd rotate imm8
    | .add => .addImm c s rn rd rotate imm8
    | .adc => .adcImm c s rn rd rotate imm8
    | .sbc => .sbcImm c s rn rd rotate imm8
    | .rsc => .rscImm c s rn rd rotate imm8
    | .tst => .tstImm c s rn rd rotate imm8
    | .teq => .teqImm c s rn rd rotate imm8
    | .cmp => .cmpImm c s rn rd rotate imm8
    | .cmn => .cmnImm c s rn rd rotate imm8
    | .orr => .orrImm c s rn rd rotate imm8
    | .mov => .movImm c s rn rd rotate imm8
    | .bic => .bicImm c s rn rd rotate imm8
    | .mvn => .mvnImm c s rn rd rotate imm8
  | .regImm amount ty rm =>
    match op with
    | .and => .andRegImm c s rn rd amount ty rm
    | .eor => .eorRegImm c s rn rd amount ty rm
    | .sub => .subRegImm c s rn rd amount ty rm
    | .rsb => .rsbRegImm c s rn rd amount ty rm
    | .add => .addRegImm c s rn rd amount ty rm
    | .adc => .adcRegImm c s rn rd amount ty rm
    | .sbc => .sbcRegImm c s rn rd amount ty rm
    | .rsc => .rscRegImm c s rn rd amount ty rm
    | .tst => .tstRegImm c s rn rd amount ty rm
    | .teq => .teqRegImm c s rn rd amount ty rm
    | .cmp => .cmpRegImm c s rn rd amount ty rm
    | .cmn => .cmnRegImm c s rn rd amount ty rm
    | .orr => .orrRegImm c s rn rd amount ty rm
    | .mov => .movRegImm c s rn rd amount ty rm
    | .bic => .bicRegImm c s rn rd amount ty rm
    | .mvn => .mvnRegImm c s rn rd amount ty rm
  | .regReg rs ty rm =>
    match op with
    | .and => .andRegReg c s rn rd rs ty rm
    | .eor => .eorRegReg c s rn rd rs ty rm
    | .sub => .subRegReg c s rn rd rs ty rm
    | .rsb => .rsbRegReg c s rn rd rs ty rm
    | .add => .addRegReg c s rn rd rs ty rm
    | .adc => .adcRegReg c s rn rd rs ty rm
    | .sbc => .sbcRegReg c s rn rd rs ty rm
    | .rsc => .rscRegReg c s rn rd rs ty rm
    | .tst => .tstRegReg c s rn rd rs ty rm
    | .teq => .teqRegReg c s rn rd rs ty rm
    | .cmp => .cmpRegReg c s rn rd rs ty rm
    | .cmn => .cmnRegReg c s rn rd rs ty rm
    | .orr => .orrRegReg c s rn rd rs ty rm
    | .mov => .movRegReg c s rn rd rs ty rm
    | .bic => .bicRegReg c s rn rd rs ty rm
    | .mvn => .mvnRegReg c s rn rd rs ty rm

/-- What the decoder is given: a wide word or a narrow halfword (R100, R101). -/
inductive CodeWord where
  | wide (w : Word)
  | narrow (h : Half)
  deriving DecidableEq, Repr

end Sys2Proof
end

