-- ==== Sys2Proof/WellFormed.lean ====
section
/-! DEFINITION. Well-formed instructions: those that stand for a word of their own. The types of the fields bound every
register number and immediate; what is left to check is a compare that shares its word with the branch-exchange (R197), the
conditions format 16 has no word for (R129), and that a `NotRecognized` instruction carries a word of its own space
(R111, R116, R123, R131). -/

namespace Sys2Proof

/-- The words of row 7 of R103 that are neither a multiply, a swap nor a transfer (R111, R116 c and d). -/
def inHalfwordGap (w : Word) : Bool :=
  w.extractLsb' 25 3 == 0b000#3 && w.getLsbD 7 && w.getLsbD 4 &&
    (if w.extractLsb' 5 2 = 0b00#2 then
      !(w.extractLsb' 22 3 == 0b000#3) && !(w.extractLsb' 23 2 == 0b01#2) &&
        !(w.extractLsb' 23 2 == 0b10#2 && w.extractLsb' 20 2 == 0b00#2 && w.extractLsb' 8 4 == 0b0000#4)
     else
      (!w.getLsbD 20 && !(w.extractLsb' 5 2 == 0b01#2)) || (!w.getLsbD 22 && !(w.extractLsb' 8 4 == 0b0000#4)))

/-- The words of row 9 of R103 with bits 25 and 4 set (R116 b). -/
def inUndefinedSpace (w : Word) : Bool := w.extractLsb' 25 3 == 0b011#3 && w.getLsbD 4

/-- The words of row 11 of R103 (R116 a). -/
def inCoprocessorSpace (w : Word) : Bool :=
  w.extractLsb' 25 3 == 0b110#3 || (w.extractLsb' 25 3 == 0b111#3 && !w.getLsbD 24)

/-- The halfwords of format 5 that are no instruction (R123). -/
def inHighRegisterGap (h : Half) : Bool :=
  h.extractLsb' 12 4 == 0b0100#4 && !h.getLsbD 11 && h.getLsbD 10 &&
    (if h.extractLsb' 8 2 = 0b11#2 then h.getLsbD 7 || !(h.extractLsb' 0 3 == 0b000#3)
     else !h.getLsbD 7 && !h.getLsbD 6)

/-- Format 16 with condition 14 (R129). -/
def inCond14Gap (h : Half) : Bool := h.extractLsb' 12 4 == 0b1101#4 && h.extractLsb' 8 4 == 0b1110#4

/-- Every other halfword that is no instruction (R131). -/
def inNarrowGap (h : Half) : Bool :=
  (h.extractLsb' 12 4 == 0b1110#4 && h.getLsbD 11) ||
    (h.extractLsb' 12 4 == 0b1011#4 && !(h.extractLsb' 8 4 == 0b0000#4) && !(h.extractLsb' 9 2 == 0b10#2))

/-- Whether an instruction is the reading of a word. -/
def Instr.wellFormed : Instr → Bool
  | .teqRegReg _ s rn rd rs ty _ => !(s == false && rn == 15 && rd == 15 && rs == 15 && ty == .lsl)
  | .tBCond c _ => c != .al && c != .nv
  | .nrHalfwordSpace w => inHalfwordGap w
  | .nrUndefinedSpace w => inUndefinedSpace w
  | .nrCoprocessorSpace w => inCoprocessorSpace w
  | .nrHighRegisterSpace h => inHighRegisterGap h
  | .nrCond14 h => inCond14Gap h
  | .nrNarrow h => inNarrowGap h
  | _ => true

end Sys2Proof
end

