-- ==== Sys2Proof/Decode.lean ====
section
/-! DEFINITION. The decoder, `classify` of R101: total on every 32-bit word and every 16-bit halfword, in the precedence order
of R103 and R119; and after it the encoder, written from the same tables of the spec (R104 to R114, R120 to R130). -/

namespace Sys2Proof

/-! ### Field values and what they name -/

/-- The number of a condition (R150). -/
def Cond.toBits : Cond → BitVec 4
  | .eq => 0#4
  | .ne => 1#4
  | .cs => 2#4
  | .cc => 3#4
  | .mi => 4#4
  | .pl => 5#4
  | .vs => 6#4
  | .vc => 7#4
  | .hi => 8#4
  | .ls => 9#4
  | .ge => 10#4
  | .lt => 11#4
  | .gt => 12#4
  | .le => 13#4
  | .al => 14#4
  | .nv => 15#4

/-- The condition a 4-bit field names (R115, R150). -/
def Cond.ofBits (x : BitVec 4) : Cond :=
  match x.toNat with
  | 0 => .eq
  | 1 => .ne
  | 2 => .cs
  | 3 => .cc
  | 4 => .mi
  | 5 => .pl
  | 6 => .vs
  | 7 => .vc
  | 8 => .hi
  | 9 => .ls
  | 10 => .ge
  | 11 => .lt
  | 12 => .gt
  | 13 => .le
  | 14 => .al
  | _ => .nv

/-- The number of a shift type (R105). -/
def ShiftType.toBits : ShiftType → BitVec 2
  | .lsl => 0#2
  | .lsr => 1#2
  | .asr => 2#2
  | .ror => 3#2

/-- The shift type a 2-bit field names (R105). -/
def ShiftType.ofBits (x : BitVec 2) : ShiftType :=
  match x.toNat with
  | 0 => .lsl
  | 1 => .lsr
  | 2 => .asr
  | _ => .ror

/-- The opcode of a data-processing operation (R104). -/
def AluOp.toBits : AluOp → BitVec 4
  | .and => 0#4
  | .eor => 1#4
  | .sub => 2#4
  | .rsb => 3#4
  | .add => 4#4
  | .adc => 5#4
  | .sbc => 6#4
  | .rsc => 7#4
  | .tst => 8#4
  | .teq => 9#4
  | .cmp => 10#4
  | .cmn => 11#4
  | .orr => 12#4
  | .mov => 13#4
  | .bic => 14#4
  | .mvn => 15#4

/-- The operation an opcode names (R104). -/
def AluOp.ofBits (x : BitVec 4) : AluOp :=
  match x.toNat with
  | 0 => .and
  | 1 => .eor
  | 2 => .sub
  | 3 => .rsb
  | 4 => .add
  | 5 => .adc
  | 6 => .sbc
  | 7 => .rsc
  | 8 => .tst
  | 9 => .teq
  | 10 => .cmp
  | 11 => .cmn
  | 12 => .orr
  | 13 => .mov
  | 14 => .bic
  | _ => .mvn

/-- The register a 4-bit field names (R25). -/
def regAt (w : Word) (lo : Nat) : Reg := (w.extractLsb' lo 4).toFin

/-- The condition field of a wide word (R115). -/
def condAt (w : Word) : Cond := Cond.ofBits (w.extractLsb' 28 4)

/-- The register a 3-bit field names (R25). -/
def lowAt (h : Half) (lo : Nat) : LowReg := (h.extractLsb' lo 3).toFin

/-! ### The wide form -/

/-- Row 2 of R103: `w & 0x0FFFFFF0 = 0x012FFF10` (R109). -/
abbrev isBranchExchange (w : Word) : Prop :=
  w.extractLsb' 25 3 = 0b000#3 ∧ w.extractLsb' 21 4 = 0b1001#4 ∧ w.getLsbD 20 = false ∧ w.extractLsb' 16 4 = 0b1111#4 ∧
    w.extractLsb' 12 4 = 0b1111#4 ∧ w.extractLsb' 8 4 = 0b1111#4 ∧ w.getLsbD 7 = false ∧ w.extractLsb' 5 2 = 0b00#2 ∧
    w.getLsbD 4 = true

/-- `w[7:4] = 1001` in the space `w[27:25] = 000`: what the masks of rows 4 to 6 of R103 have in common. -/
abbrev isMultiplySpace (w : Word) : Prop :=
  w.extractLsb' 25 3 = 0b000#3 ∧ w.getLsbD 7 = true ∧ w.extractLsb' 5 2 = 0b00#2 ∧ w.getLsbD 4 = true

/-- Rows 4 and 5 of R103: the multiplies (R106, R107). -/
def decodeMultiply (w : Word) : Instr :=
  if w.extractLsb' 23 2 = 0b00#2 then
    if w.getLsbD 21 then .mla (condAt w) (w.getLsbD 20) (regAt w 16) (regAt w 12) (regAt w 8) (regAt w 0)
    else .mul (condAt w) (w.getLsbD 20) (regAt w 16) (regAt w 12) (regAt w 8) (regAt w 0)
  else if w.getLsbD 22 then
    if w.getLsbD 21 then .smlal (condAt w) (w.getLsbD 20) (regAt w 16) (regAt w 12) (regAt w 8) (regAt w 0)
    else .smull (condAt w) (w.getLsbD 20) (regAt w 16) (regAt w 12) (regAt w 8) (regAt w 0)
  else
    if w.getLsbD 21 then .umlal (condAt w) (w.getLsbD 20) (regAt w 16) (regAt w 12) (regAt w 8) (regAt w 0)
    else .umull (condAt w) (w.getLsbD 20) (regAt w 16) (regAt w 12) (regAt w 8) (regAt w 0)

/-- Row 7 of R103: the halfword and signed transfers (R111). -/
def decodeHalfword (w : Word) : Instr :=
  if w.getLsbD 22 then
    if w.getLsbD 20 then
      if w.extractLsb' 5 2 = 0b01#2 then
        .ldrhImm (condAt w) (w.getLsbD 24) (w.getLsbD 23) (w.getLsbD 21) (regAt w 16) (regAt w 12)
          (w.extractLsb' 8 4 ++ w.extractLsb' 0 4)
      else if w.extractLsb' 5 2 = 0b10#2 then
        .ldrsbImm (condAt w) (w.getLsbD 24) (w.getLsbD 23) (w.getLsbD 21) (regAt w 16) (regAt w 12)
          (w.extractLsb' 8 4 ++ w.extractLsb' 0 4)
      else if w.extractLsb' 5 2 = 0b11#2 then
        .ldrshImm (condAt w) (w.getLsbD 24) (w.getLsbD 23) (w.getLsbD 21) (regAt w 16) (regAt w 12)
          (w.extractLsb' 8 4 ++ w.extractLsb' 0 4)
      else .nrHalfwordSpace w
    else if w.extractLsb' 5 2 = 0b01#2 then
      .strhImm (condAt w) (w.getLsbD 24) (w.getLsbD 23) (w.getLsbD 21) (regAt w 16) (regAt w 12)
        (w.extractLsb' 8 4 ++ w.extractLsb' 0 4)
    else .nrHalfwordSpace w
  else if w.extractLsb' 8 4 = 0b0000#4 then
    if w.getLsbD 20 then
      if w.extractLsb' 5 2 = 0b01#2 then
        .ldrhReg (condAt w) (w.getLsbD 24) (w.getLsbD 23) (w.getLsbD 21) (regAt w 16) (regAt w 12) (regAt w 0)
      else if w.extractLsb' 5 2 = 0b10#2 then
        .ldrsbReg (condAt w) (w.getLsbD 24) (w.getLsbD 23) (w.getLsbD 21) (regAt w 16) (regAt w 12) (regAt w 0)
      else if w.extractLsb' 5 2 = 0b11#2 then
        .ldrshReg (condAt w) (w.getLsbD 24) (w.getLsbD 23) (w.getLsbD 21) (regAt w 16) (regAt w 12) (regAt w 0)
      else .nrHalfwordSpace w
    else if w.extractLsb' 5 2 = 0b01#2 then
      .strhReg (condAt w) (w.getLsbD 24) (w.getLsbD 23) (w.getLsbD 21) (regAt w 16) (regAt w 12) (regAt w 0)
    else .nrHalfwordSpace w
  else .nrHalfwordSpace w

/-- The operand of a data-processing word (R105). -/
def operand2At (w : Word) : Operand2 :=
  if w.getLsbD 25 then .imm (w.extractLsb' 8 4) (w.extractLsb' 0 8)
  else if w.getLsbD 4 then .regReg (regAt w 8) (ShiftType.ofBits (w.extractLsb' 5 2)) (regAt w 0)
  else .regImm (w.extractLsb' 7 5) (ShiftType.ofBits (w.extractLsb' 5 2)) (regAt w 0)

/-- Row 8 of R103: data processing (R104). -/
def decodeDataProc (w : Word) : Instr :=
  Instr.dataProc (AluOp.ofBits (w.extractLsb' 21 4)) (condAt w) (w.getLsbD 20) (regAt w 16) (regAt w 12) (operand2At w)

/-- Row 9 of R103: single transfers (R112). -/
def decodeSingle (w : Word) : Instr :=
  if w.getLsbD 25 then
    if w.getLsbD 4 then .nrUndefinedSpace w
    else if w.getLsbD 20 then
      if w.getLsbD 22 then
        .ldrbReg (condAt w) (w.getLsbD 24) (w.getLsbD 23) (w.getLsbD 21) (regAt w 16) (regAt w 12) (w.extractLsb' 7 5)
          (ShiftType.ofBits (w.extractLsb' 5 2)) (regAt w 0)
      else
        .ldrReg (condAt w) (w.getLsbD 24) (w.getLsbD 23) (w.getLsbD 21) (regAt w 16) (regAt w 12) (w.extractLsb' 7 5)
          (ShiftType.ofBits (w.extractLsb' 5 2)) (regAt w 0)
    else if w.getLsbD 22 then
      .strbReg (condAt w) (w.getLsbD 24) (w.getLsbD 23) (w.getLsbD 21) (regAt w 16) (regAt w 12) (w.extractLsb' 7 5)
        (ShiftType.ofBits (w.extractLsb' 5 2)) (regAt w 0)
    else
      .strReg (condAt w) (w.getLsbD 24) (w.getLsbD 23) (w.getLsbD 21) (regAt w 16) (regAt w 12) (w.extractLsb' 7 5)
        (ShiftType.ofBits (w.extractLsb' 5 2)) (regAt w 0)
  else if w.getLsbD 20 then
    if w.getLsbD 22 then
      .ldrbImm (condAt w) (w.getLsbD 24) (w.getLsbD 23) (w.getLsbD 21) (regAt w 16) (regAt w 12) (w.extractLsb' 0 12)
    else .ldrImm (condAt w) (w.getLsbD 24) (w.getLsbD 23) (w.getLsbD 21) (regAt w 16) (regAt w 12) (w.extractLsb' 0 12)
  else if w.getLsbD 22 then
    .strbImm (condAt w) (w.getLsbD 24) (w.getLsbD 23) (w.getLsbD 21) (regAt w 16) (regAt w 12) (w.extractLsb' 0 12)
  else .strImm (condAt w) (w.getLsbD 24) (w.getLsbD 23) (w.getLsbD 21) (regAt w 16) (regAt w 12) (w.extractLsb' 0 12)

/-- The verdict on a wide word: the rows of R103 in their order. -/
def decodeWide (w : Word) : Instr :=
  if w.extractLsb' 25 3 = 0b111#3 ∧ w.getLsbD 24 = true then .swi (condAt w) (w.extractLsb' 0 24)
  else if isBranchExchange w then .bx (condAt w) (regAt w 0)
  else if w.extractLsb' 25 3 = 0b101#3 then
    if w.getLsbD 24 then .bl (condAt w) (w.extractLsb' 0 24) else .b (condAt w) (w.extractLsb' 0 24)
  else if isMultiplySpace w ∧ (w.extractLsb' 22 3 = 0b000#3 ∨ w.extractLsb' 23 2 = 0b01#2) then decodeMultiply w
  else if isMultiplySpace w ∧ w.extractLsb' 23 2 = 0b10#2 ∧ w.extractLsb' 20 2 = 0b00#2 ∧ w.extractLsb' 8 4 = 0b0000#4 then
    if w.getLsbD 22 then .swpb (condAt w) (regAt w 16) (regAt w 12) (regAt w 0)
    else .swp (condAt w) (regAt w 16) (regAt w 12) (regAt w 0)
  else if w.extractLsb' 25 3 = 0b000#3 ∧ w.getLsbD 7 = true ∧ w.getLsbD 4 = true then decodeHalfword w
  else if w.extractLsb' 26 2 = 0b00#2 then decodeDataProc w
  else if w.extractLsb' 26 2 = 0b01#2 then decodeSingle w
  else if w.extractLsb' 25 3 = 0b100#3 then
    if w.getLsbD 20 then
      .ldm (condAt w) (w.getLsbD 24) (w.getLsbD 23) (w.getLsbD 22) (w.getLsbD 21) (regAt w 16) (w.extractLsb' 0 16)
    else
      .stm (condAt w) (w.getLsbD 24) (w.getLsbD 23) (w.getLsbD 22) (w.getLsbD 21) (regAt w 16) (w.extractLsb' 0 16)
  else .nrCoprocessorSpace w

/-! ### The narrow form -/

/-- Row 4 of R119: format 4 (R122). -/
def decodeFormat4 (h : Half) : Instr :=
  match (h.extractLsb' 6 4).toNat with
  | 0 => .tAnd (lowAt h 3) (lowAt h 0)
  | 1 => .tEor (lowAt h 3) (lowAt h 0)
  | 2 => .tLsl (lowAt h 3) (lowAt h 0)
  | 3 => .tLsr (lowAt h 3) (lowAt h 0)
  | 4 => .tAsr (lowAt h 3) (lowAt h 0)
  | 5 => .tAdc (lowAt h 3) (lowAt h 0)
  | 6 => .tSbc (lowAt h 3) (lowAt h 0)
  | 7 => .tRor (lowAt h 3) (lowAt h 0)
  | 8 => .tTst (lowAt h 3) (lowAt h 0)
  | 9 => .tNeg (lowAt h 3) (lowAt h 0)
  | 10 => .tCmp (lowAt h 3) (lowAt h 0)
  | 11 => .tCmn (lowAt h 3) (lowAt h 0)
  | 12 => .tOrr (lowAt h 3) (lowAt h 0)
  | 13 => .tMul (lowAt h 3) (lowAt h 0)
  | 14 => .tBic (lowAt h 3) (lowAt h 0)
  | _ => .tMvn (lowAt h 3) (lowAt h 0)

/-- Row 5 of R119: format 5 (R123); `h[6:3]` is the source number and `h[7]` the destination's high bit. -/
def decodeFormat5 (h : Half) : Instr :=
  if h.extractLsb' 8 2 = 0b11#2 then
    if h.getLsbD 7 = false ∧ h.extractLsb' 0 3 = 0b000#3 then .tBx (h.extractLsb' 3 4).toFin else .nrHighRegisterSpace h
  else if h.getLsbD 7 then
    match (h.extractLsb' 8 2).toNat with
    | 0 => .tAddHiH1 (h.extractLsb' 3 4).toFin (lowAt h 0)
    | 1 => .tCmpHiH1 (h.extractLsb' 3 4).toFin (lowAt h 0)
    | _ => .tMovHiH1 (h.extractLsb' 3 4).toFin (lowAt h 0)
  else if h.getLsbD 6 then
    match (h.extractLsb' 8 2).toNat with
    | 0 => .tAddHiH2 (lowAt h 3) (lowAt h 0)
    | 1 => .tCmpHiH2 (lowAt h 3) (lowAt h 0)
    | _ => .tMovHiH2 (lowAt h 3) (lowAt h 0)
  else .nrHighRegisterSpace h

/-- Rows 7 and 8 of R119: formats 8 and 7 (R125), by `h[11:9]`. -/
def decodeFormat78 (h : Half) : Instr :=
  match (h.extractLsb' 9 3).toNat with
  | 0 => .tStrReg (lowAt h 6) (lowAt h 3) (lowAt h 0)
  | 1 => .tStrhReg (lowAt h 6) (lowAt h 3) (lowAt h 0)
  | 2 => .tStrbReg (lowAt h 6) (lowAt h 3) (lowAt h 0)
  | 3 => .tLdsbReg (lowAt h 6) (lowAt h 3) (lowAt h 0)
  | 4 => .tLdrReg (lowAt h 6) (lowAt h 3) (lowAt h 0)
  | 5 => .tLdrhReg (lowAt h 6) (lowAt h 3) (lowAt h 0)
  | 6 => .tLdrbReg (lowAt h 6) (lowAt h 3) (lowAt h 0)
  | _ => .tLdshReg (lowAt h 6) (lowAt h 3) (lowAt h 0)

/-- Rows 1 and 2 of R119: formats 2 and 1 (R120), by `h[12:11]` and `h[10:9]`. -/
def decodeFormat12 (h : Half) : Instr :=
  match (h.extractLsb' 11 2).toNat with
  | 0 => .tLslImm (h.extractLsb' 6 5) (lowAt h 3) (lowAt h 0)
  | 1 => .tLsrImm (h.extractLsb' 6 5) (lowAt h 3) (lowAt h 0)
  | 2 => .tAsrImm (h.extractLsb' 6 5) (lowAt h 3) (lowAt h 0)
  | _ =>
    match (h.extractLsb' 9 2).toNat with
    | 0 => .tAddReg (lowAt h 6) (lowAt h 3) (lowAt h 0)
    | 1 => .tSubReg (lowAt h 6) (lowAt h 3) (lowAt h 0)
    | 2 => .tAddImm3 (h.extractLsb' 6 3) (lowAt h 3) (lowAt h 0)
    | _ => .tSubImm3 (h.extractLsb' 6 3) (lowAt h 3) (lowAt h 0)

/-- Row 3 of R119: format 3 (R121). -/
def decodeFormat3 (h : Half) : Instr :=
  match (h.extractLsb' 11 2).toNat with
  | 0 => .tMovImm (lowAt h 8) (h.extractLsb' 0 8)
  | 1 => .tCmpImm (lowAt h 8) (h.extractLsb' 0 8)
  | 2 => .tAddImm8 (lowAt h 8) (h.extractLsb' 0 8)
  | _ => .tSubImm8 (lowAt h 8) (h.extractLsb' 0 8)

/-- Row 9 of R119: format 9 (R126), by `h[12:11]` = `B L`. -/
def decodeFormat9 (h : Half) : Instr :=
  match (h.extractLsb' 11 2).toNat with
  | 0 => .tStrImm (h.extractLsb' 6 5) (lowAt h 3) (lowAt h 0)
  | 1 => .tLdrImm (h.extractLsb' 6 5) (lowAt h 3) (lowAt h 0)
  | 2 => .tStrbImm (h.extractLsb' 6 5) (lowAt h 3) (lowAt h 0)
  | _ => .tLdrbImm (h.extractLsb' 6 5) (lowAt h 3) (lowAt h 0)

/-- Rows 13 and 14 of R119 and the unassigned halfwords beside them: formats 13 and 14 (R127, R128, R131). -/
def decodeMisc (h : Half) : Instr :=
  if h.extractLsb' 8 4 = 0b0000#4 then
    if h.getLsbD 7 then .tSubSpImm (h.extractLsb' 0 7) else .tAddSpImm (h.extractLsb' 0 7)
  else if h.extractLsb' 9 2 = 0b10#2 then
    if h.getLsbD 11 then
      if h.getLsbD 8 then .tPopPc (h.extractLsb' 0 8) else .tPop (h.extractLsb' 0 8)
    else .tPush (h.getLsbD 8) (h.extractLsb' 0 8)
  else .nrNarrow h

/-- Rows 16 to 18 of R119: formats 17 and 16 (R129). -/
def decodeFormat1617 (h : Half) : Instr :=
  if h.extractLsb' 8 4 = 0b1111#4 then .tSwi (h.extractLsb' 0 8)
  else if h.extractLsb' 8 4 = 0b1110#4 then .nrCond14 h
  else .tBCond (Cond.ofBits (h.extractLsb' 8 4)) (h.extractLsb' 0 8)

/-- The verdict on a halfword: the rows of R119, whose conditions exclude one another once `h[15:12]` and `h[11:10]` are
known. -/
def decodeNarrow (h : Half) : Instr :=
  match (h.extractLsb' 12 4).toNat with
  | 0 => decodeFormat12 h
  | 1 => decodeFormat12 h
  | 2 => decodeFormat3 h
  | 3 => decodeFormat3 h
  | 4 =>
    if h.getLsbD 11 then .tLdrPc (lowAt h 8) (h.extractLsb' 0 8)
    else if h.getLsbD 10 then decodeFormat5 h
    else decodeFormat4 h
  | 5 => decodeFormat78 h
  | 6 => decodeFormat9 h
  | 7 => decodeFormat9 h
  | 8 =>
    if h.getLsbD 11 then .tLdrhImm (h.extractLsb' 6 5) (lowAt h 3) (lowAt h 0)
    else .tStrhImm (h.extractLsb' 6 5) (lowAt h 3) (lowAt h 0)
  | 9 => if h.getLsbD 11 then .tLdrSp (lowAt h 8) (h.extractLsb' 0 8) else .tStrSp (lowAt h 8) (h.extractLsb' 0 8)
  | 10 => if h.getLsbD 11 then .tAddSp (lowAt h 8) (h.extractLsb' 0 8) else .tAddPc (lowAt h 8) (h.extractLsb' 0 8)
  | 11 => decodeMisc h
  | 12 => if h.getLsbD 11 then .tLdmia (lowAt h 8) (h.extractLsb' 0 8) else .tStmia (lowAt h 8) (h.extractLsb' 0 8)
  | 13 => decodeFormat1617 h
  | 14 => if h.getLsbD 11 then .nrNarrow h else .tB (h.extractLsb' 0 11)
  | _ => if h.getLsbD 11 then .tBlSecond (h.extractLsb' 0 11) else .tBlFirst (h.extractLsb' 0 11)

/-! ### Words and bytes -/

/-- `classify(word, isNarrowMode)` (R101). -/
def decode : CodeWord → Instr
  | .wide w => decodeWide w
  | .narrow h => decodeNarrow h

/-- The word of the form `narrow` that the low bits of a fetched value make (R143). -/
def CodeWord.ofValue (narrow : Bool) (v : Word) : CodeWord :=
  if narrow then .narrow (v.setWidth 16) else .wide v

/-- The raw word as a 32-bit value, a halfword zero-extended (R304). -/
def CodeWord.value : CodeWord → Word
  | .wide w => w
  | .narrow h => zext h

/-- The bytes of a word as they lie in memory, lowest address first (R65, R100). -/
def CodeWord.bytes : CodeWord → List Byte
  | .wide w => splitBytes w 4
  | .narrow h => splitBytes (zext h) 2

/-- Why a byte sequence has no verdict. -/
inductive DecodeReject where
  /-- fewer bytes than the form has -/
  | truncated
  deriving DecidableEq, Repr

/-- The number of bytes of an instruction, which the form alone decides (R100). -/
def formBytes (narrow : Bool) : Nat := if narrow then 2 else 4

/-- The first instruction of a byte sequence and the bytes after it. -/
def decodeBytes (narrow : Bool) (bs : List Byte) : Except DecodeReject (Instr × List Byte) :=
  if bs.length < formBytes narrow then .error .truncated
  else .ok (decode (CodeWord.ofValue narrow (joinBytes (bs.take (formBytes narrow)))), bs.drop (formBytes narrow))

/-- The instruction the decoder reads from the bits `w` of a table row of `nbits` bits: 16 bits are a halfword, more a wide
word; the bytes are laid out as the hardware stores them. -/
def decodeTableWord (nbits w : Nat) : Option Instr :=
  let narrow := nbits ≤ 16
  match decodeBytes narrow (splitBytes (BitVec.ofNat 32 w) 4) with
  | .ok (i, _) => some i
  | .error _ => none

/-! ### The encoder -/

/-- A register in a 4-bit field. -/
def putReg (lo : Nat) (r : Reg) : Word := putField 32 lo (BitVec.ofFin r : BitVec 4)

/-- The condition field (R115). -/
def putCond (c : Cond) : Word := putField 32 28 c.toBits

/-- A low register in a 3-bit field of a halfword. -/
def putLow (lo : Nat) (r : LowReg) : Half := putField 16 lo (BitVec.ofFin r : BitVec 3)

/-- R105: the bits of `operand2` and the I bit. -/
def encodeOperand2 : Operand2 → Word
  | .imm rotate imm8 => 0x02000000#32 ||| putField 32 8 rotate ||| putField 32 0 imm8
  | .regImm amount ty rm => putField 32 7 amount ||| putField 32 5 ty.toBits ||| putReg 0 rm
  | .regReg rs ty rm => 0x00000010#32 ||| putReg 8 rs ||| putField 32 5 ty.toBits ||| putReg 0 rm

/-- R104. -/
def encodeDataProc (op : AluOp) (c : Cond) (s : Bool) (rn rd : Reg) (o : Operand2) : Word :=
  putCond c ||| putField 32 21 op.toBits ||| putBit 32 20 s ||| putReg 16 rn ||| putReg 12 rd ||| encodeOperand2 o

/-- R106, R107 and R108: a word with `w[7:4] = 1001`, `base` its other fixed bits. -/
def encodeMultiply (base : Word) (c : Cond) (s : Bool) (r16 r12 r8 r0 : Reg) : Word :=
  base ||| 0x00000090#32 ||| putCond c ||| putBit 32 20 s ||| putReg 16 r16 ||| putReg 12 r12 ||| putReg 8 r8 |||
    putReg 0 r0

/-- The P, U and W bits of R111 to R113. -/
def putIndex (p u w : Bool) : Word := putBit 32 24 p ||| putBit 32 23 u ||| putBit 32 21 w

/-- R111 with the immediate offset; `base` holds I, L, SH and bits 7 and 4. -/
def encodeHalfImm (base : Word) (c : Cond) (p u w : Bool) (rn rd : Reg) (off : BitVec 8) : Word :=
  base ||| putCond c ||| putIndex p u w ||| putReg 16 rn ||| putReg 12 rd ||| putField 32 8 (off.extractLsb' 4 4) |||
    putField 32 0 (off.extractLsb' 0 4)

/-- R111 with the register offset. -/
def encodeHalfReg (base : Word) (c : Cond) (p u w : Bool) (rn rd rm : Reg) : Word :=
  base ||| putCond c ||| putIndex p u w ||| putReg 16 rn ||| putReg 12 rd ||| putReg 0 rm

/-- R112 with the immediate offset; `base` holds B and L. -/
def encodeSingleImm (base : Word) (c : Cond) (p u w : Bool) (rn rd : Reg) (off : BitVec 12) : Word :=
  0x04000000#32 ||| base ||| putCond c ||| putIndex p u w ||| putReg 16 rn ||| putReg 12 rd ||| putField 32 0 off

/-- R112 with the register offset. -/
def encodeSingleReg (base : Word) (c : Cond) (p u w : Bool) (rn rd : Reg) (amount : BitVec 5) (ty : ShiftType)
    (rm : Reg) : Word :=
  0x06000000#32 ||| base ||| putCond c ||| putIndex p u w ||| putReg 16 rn ||| putReg 12 rd ||| putField 32 7 amount |||
    putField 32 5 ty.toBits ||| putReg 0 rm

/-- R113; `base` holds L. -/
def encodeBlock (base : Word) (c : Cond) (p u s w : Bool) (rn : Reg) (list : BitVec 16) : Word :=
  0x08000000#32 ||| base ||| putCond c ||| putIndex p u w ||| putBit 32 22 s ||| putReg 16 rn ||| putField 32 0 list

/-- A halfword with two register fields in bits 5:3 and 2:0. -/
def encodeLow2 (base : Half) (r3 r0 : LowReg) : Half := base ||| putLow 3 r3 ||| putLow 0 r0

/-- A halfword with three register fields. -/
def encodeLow3 (base : Half) (r6 r3 r0 : LowReg) : Half := base ||| putLow 6 r6 ||| putLow 3 r3 ||| putLow 0 r0

/-- A halfword with a 5-bit field and two register fields. -/
def encodeOff5 (base : Half) (off : BitVec 5) (r3 r0 : LowReg) : Half :=
  base ||| putField 16 6 off ||| putLow 3 r3 ||| putLow 0 r0

/-- A halfword with a register field in bits 10:8 and an 8-bit field. -/
def encodeImm8 (base : Half) (r8 : LowReg) (imm : BitVec 8) : Half := base ||| putLow 8 r8 ||| putField 16 0 imm

/-- The word of an instruction (R104 to R114, R120 to R130). -/
def encode : Instr → CodeWord
  | .swi c comment => .wide (0x0F000000#32 ||| putCond c ||| putField 32 0 comment)
  | .bx c rm => .wide (0x012FFF10#32 ||| putCond c ||| putReg 0 rm)
  | .b c offset => .wide (0x0A000000#32 ||| putCond c ||| putField 32 0 offset)
  | .bl c offset => .wide (0x0B000000#32 ||| putCond c ||| putField 32 0 offset)
  | .mul c s rd rn rs rm => .wide (encodeMultiply 0x00000000#32 c s rd rn rs rm)
  | .mla c s rd rn rs rm => .wide (encodeMultiply 0x00200000#32 c s rd rn rs rm)
  | .umull c s rdHi rdLo rs rm => .wide (encodeMultiply 0x00800000#32 c s rdHi rdLo rs rm)
  | .umlal c s rdHi rdLo rs rm => .wide (encodeMultiply 0x00A00000#32 c s rdHi rdLo rs rm)
  | .smull c s rdHi rdLo rs rm => .wide (encodeMultiply 0x00C00000#32 c s rdHi rdLo rs rm)
  | .smlal c s rdHi rdLo rs rm => .wide (encodeMultiply 0x00E00000#32 c s rdHi rdLo rs rm)
  | .swp c rn rd rm => .wide (encodeMultiply 0x01000000#32 c false rn rd 0 rm)
  | .swpb c rn rd rm => .wide (encodeMultiply 0x01400000#32 c false rn rd 0 rm)
  | .ldrhImm c p u w rn rd offset => .wide (encodeHalfImm 0x005000B0#32 c p u w rn rd offset)
  | .ldrhReg c p u w rn rd rm => .wide (encodeHalfReg 0x001000B0#32 c p u w rn rd rm)
  | .ldrsbImm c p u w rn rd offset => .wide (encodeHalfImm 0x005000D0#32 c p u w rn rd offset)
  | .ldrsbReg c p u w rn rd rm => .wide (encodeHalfReg 0x001000D0#32 c p u w rn rd rm)
  | .ldrshImm c p u w rn rd offset => .wide (encodeHalfImm 0x005000F0#32 c p u w rn rd offset)
  | .ldrshReg c p u w rn rd rm => .wide (encodeHalfReg 0x001000F0#32 c p u w rn rd rm)
  | .strhImm c p u w rn rd offset => .wide (encodeHalfImm 0x004000B0#32 c p u w rn rd offset)
  | .strhReg c p u w rn rd rm => .wide (encodeHalfReg 0x000000B0#32 c p u w rn rd rm)
  | .nrHalfwordSpace word => .wide word
  | .andImm c s rn rd rotate imm8 => .wide (encodeDataProc .and c s rn rd (.imm rotate imm8))
  | .andRegImm c s rn rd amount ty rm => .wide (encodeDataProc .and c s rn rd (.regImm amount ty rm))
  | .andRegReg c s rn rd rs ty rm => .wide (encodeDataProc .and c s rn rd (.regReg rs ty rm))
  | .eorImm c s rn rd rotate imm8 => .wide (encodeDataProc .eor c s rn rd (.imm rotate imm8))
  | .eorRegImm c s rn rd amount ty rm => .wide (encodeDataProc .eor c s rn rd (.regImm amount ty rm))
  | .eorRegReg c s rn rd rs ty rm => .wide (encodeDataProc .eor c s rn rd (.regReg rs ty rm))
  | .subImm c s rn rd rotate imm8 => .wide (encodeDataProc .sub c s rn rd (.imm rotate imm8))
  | .subRegImm c s rn rd amount ty rm => .wide (encodeDataProc .sub c s rn rd (.regImm amount ty rm))
  | .subRegReg c s rn rd rs ty rm => .wide (encodeDataProc .sub c s rn rd (.regReg rs ty rm))
  | .rsbImm c s rn rd rotate imm8 => .wide (encodeDataProc .rsb c s rn rd (.imm rotate imm8))
  | .rsbRegImm c s rn rd amount ty rm => .wide (encodeDataProc .rsb c s rn rd (.regImm amount ty rm))
  | .rsbRegReg c s rn rd rs ty rm => .wide (encodeDataProc .rsb c s rn rd (.regReg rs ty rm))
  | .addImm c s rn rd rotate imm8 => .wide (encodeDataProc .add c s rn rd (.imm rotate imm8))
  | .addRegImm c s rn rd amount ty rm => .wide (encodeDataProc .add c s rn rd (.regImm amount ty rm))
  | .addRegReg c s rn rd rs ty rm => .wide (encodeDataProc .add c s rn rd (.regReg rs ty rm))
  | .adcImm c s rn rd rotate imm8 => .wide (encodeDataProc .adc c s rn rd (.imm rotate imm8))
  | .adcRegImm c s rn rd amount ty rm => .wide (encodeDataProc .adc c s rn rd (.regImm amount ty rm))
  | .adcRegReg c s rn rd rs ty rm => .wide (encodeDataProc .adc c s rn rd (.regReg rs ty rm))
  | .sbcImm c s rn rd rotate imm8 => .wide (encodeDataProc .sbc c s rn rd (.imm rotate imm8))
  | .sbcRegImm c s rn rd amount ty rm => .wide (encodeDataProc .sbc c s rn rd (.regImm amount ty rm))
  | .sbcRegReg c s rn rd rs ty rm => .wide (encodeDataProc .sbc c s rn rd (.regReg rs ty rm))
  | .rscImm c s rn rd rotate imm8 => .wide (encodeDataProc .rsc c s rn rd (.imm rotate imm8))
  | .rscRegImm c s rn rd amount ty rm => .wide (encodeDataProc .rsc c s rn rd (.regImm amount ty rm))
  | .rscRegReg c s rn rd rs ty rm => .wide (encodeDataProc .rsc c s rn rd (.regReg rs ty rm))
  | .tstImm c s rn rd rotate imm8 => .wide (encodeDataProc .tst c s rn rd (.imm rotate imm8))
  | .tstRegImm c s rn rd amount ty rm => .wide (encodeDataProc .tst c s rn rd (.regImm amount ty rm))
  | .tstRegReg c s rn rd rs ty rm => .wide (encodeDataProc .tst c s rn rd (.regReg rs ty rm))
  | .teqImm c s rn rd rotate imm8 => .wide (encodeDataProc .teq c s rn rd (.imm rotate imm8))
  | .teqRegImm c s rn rd amount ty rm => .wide (encodeDataProc .teq c s rn rd (.regImm amount ty rm))
  | .teqRegReg c s rn rd rs ty rm => .wide (encodeDataProc .teq c s rn rd (.regReg rs ty rm))
  | .cmpImm c s rn rd rotate imm8 => .wide (encodeDataProc .cmp c s rn rd (.imm rotate imm8))
  | .cmpRegImm c s rn rd amount ty rm => .wide (encodeDataProc .cmp c s rn rd (.regImm amount ty rm))
  | .cmpRegReg c s rn rd rs ty rm => .wide (encodeDataProc .cmp c s rn rd (.regReg rs ty rm))
  | .cmnImm c s rn rd rotate imm8 => .wide (encodeDataProc .cmn c s rn rd (.imm rotate imm8))
  | .cmnRegImm c s rn rd amount ty rm => .wide (encodeDataProc .cmn c s rn rd (.regImm amount ty rm))
  | .cmnRegReg c s rn rd rs ty rm => .wide (encodeDataProc .cmn c s rn rd (.regReg rs ty rm))
  | .orrImm c s rn rd rotate imm8 => .wide (encodeDataProc .orr c s rn rd (.imm rotate imm8))
  | .orrRegImm c s rn rd amount ty rm => .wide (encodeDataProc .orr c s rn rd (.regImm amount ty rm))
  | .orrRegReg c s rn rd rs ty rm => .wide (encodeDataProc .orr c s rn rd (.regReg rs ty rm))
  | .movImm c s rn rd rotate imm8 => .wide (encodeDataProc .mov c s rn rd (.imm rotate imm8))
  | .movRegImm c s rn rd amount ty rm => .wide (encodeDataProc .mov c s rn rd (.regImm amount ty rm))
  | .movRegReg c s rn rd rs ty rm => .wide (encodeDataProc .mov c s rn rd (.regReg rs ty rm))
  | .bicImm c s rn rd rotate imm8 => .wide (encodeDataProc .bic c s rn rd (.imm rotate imm8))
  | .bicRegImm c s rn rd amount ty rm => .wide (encodeDataProc .bic c s rn rd (.regImm amount ty rm))
  | .bicRegReg c s rn rd rs ty rm => .wide (encodeDataProc .bic c s rn rd (.regReg rs ty rm))
  | .mvnImm c s rn rd rotate imm8 => .wide (encodeDataProc .mvn c s rn rd (.imm rotate imm8))
  | .mvnRegImm c s rn rd amount ty rm => .wide (encodeDataProc .mvn c s rn rd (.regImm amount ty rm))
  | .mvnRegReg c s rn rd rs ty rm => .wide (encodeDataProc .mvn c s rn rd (.regReg rs ty rm))
  | .ldrImm c p u w rn rd offset => .wide (encodeSingleImm 0x00100000#32 c p u w rn rd offset)
  | .ldrReg c p u w rn rd amount ty rm => .wide (encodeSingleReg 0x00100000#32 c p u w rn rd amount ty rm)
  | .ldrbImm c p u w rn rd offset => .wide (encodeSingleImm 0x00500000#32 c p u w rn rd offset)
  | .ldrbReg c p u w rn rd amount ty rm => .wide (encodeSingleReg 0x00500000#32 c p u w rn rd amount ty rm)
  | .strImm c p u w rn rd offset => .wide (encodeSingleImm 0x00000000#32 c p u w rn rd offset)
  | .strReg c p u w rn rd amount ty rm => .wide (encodeSingleReg 0x00000000#32 c p u w rn rd amount ty rm)
  | .strbImm c p u w rn rd offset => .wide (encodeSingleImm 0x00400000#32 c p u w rn rd offset)
  | .strbReg c p u w rn rd amount ty rm => .wide (encodeSingleReg 0x00400000#32 c p u w rn rd amount ty rm)
  | .nrUndefinedSpace word => .wide word
  | .ldm c p u s w rn list => .wide (encodeBlock 0x00100000#32 c p u s w rn list)
  | .stm c p u s w rn list => .wide (encodeBlock 0x00000000#32 c p u s w rn list)
  | .nrCoprocessorSpace word => .wide word
  | .tAddReg rn rs rd => .narrow (encodeLow3 0x1800#16 rn rs rd)
  | .tSubReg rn rs rd => .narrow (encodeLow3 0x1A00#16 rn rs rd)
  | .tAddImm3 imm3 rs rd => .narrow (0x1C00#16 ||| putField 16 6 imm3 ||| putLow 3 rs ||| putLow 0 rd)
  | .tSubImm3 imm3 rs rd => .narrow (0x1E00#16 ||| putField 16 6 imm3 ||| putLow 3 rs ||| putLow 0 rd)
  | .tLslImm offset5 rs rd => .narrow (encodeOff5 0x0000#16 offset5 rs rd)
  | .tLsrImm offset5 rs rd => .narrow (encodeOff5 0x0800#16 offset5 rs rd)
  | .tAsrImm offset5 rs rd => .narrow (encodeOff5 0x1000#16 offset5 rs rd)
  | .tMovImm rd imm8 => .narrow (encodeImm8 0x2000#16 rd imm8)
  | .tCmpImm rd imm8 => .narrow (encodeImm8 0x2800#16 rd imm8)
  | .tAddImm8 rd imm8 => .narrow (encodeImm8 0x3000#16 rd imm8)
  | .tSubImm8 rd imm8 => .narrow (encodeImm8 0x3800#16 rd imm8)
  | .tAnd rs rd => .narrow (encodeLow2 0x4000#16 rs rd)
  | .tEor rs rd => .narrow (encodeLow2 0x4040#16 rs rd)
  | .tLsl rs rd => .narrow (encodeLow2 0x4080#16 rs rd)
  | .tLsr rs rd => .narrow (encodeLow2 0x40C0#16 rs rd)
  | .tAsr rs rd => .narrow (encodeLow2 0x4100#16 rs rd)
  | .tAdc rs rd => .narrow (encodeLow2 0x4140#16 rs rd)
  | .tSbc rs rd => .narrow (encodeLow2 0x4180#16 rs rd)
  | .tRor rs rd => .narrow (encodeLow2 0x41C0#16 rs rd)
  | .tTst rs rd => .narrow (encodeLow2 0x4200#16 rs rd)
  | .tNeg rs rd => .narrow (encodeLow2 0x4240#16 rs rd)
  | .tCmp rs rd => .narrow (encodeLow2 0x4280#16 rs rd)
  | .tCmn rs rd => .narrow (encodeLow2 0x42C0#16 rs rd)
  | .tOrr rs rd => .narrow (encodeLow2 0x4300#16 rs rd)
  | .tMul rs rd => .narrow (encodeLow2 0x4340#16 rs rd)
  | .tBic rs rd => .narrow (encodeLow2 0x4380#16 rs rd)
  | .tMvn rs rd => .narrow (encodeLow2 0x43C0#16 rs rd)
  | .tAddHiH1 rs rd => .narrow (0x4480#16 ||| putField 16 3 (BitVec.ofFin rs : BitVec 4) ||| putLow 0 rd)
  | .tAddHiH2 rs rd => .narrow (encodeLow2 0x4440#16 rs rd)
  | .tCmpHiH1 rs rd => .narrow (0x4580#16 ||| putField 16 3 (BitVec.ofFin rs : BitVec 4) ||| putLow 0 rd)
  | .tCmpHiH2 rs rd => .narrow (encodeLow2 0x4540#16 rs rd)
  | .tMovHiH1 rs rd => .narrow (0x4680#16 ||| putField 16 3 (BitVec.ofFin rs : BitVec 4) ||| putLow 0 rd)
  | .tMovHiH2 rs rd => .narrow (encodeLow2 0x4640#16 rs rd)
  | .tBx rs => .narrow (0x4700#16 ||| putField 16 3 (BitVec.ofFin rs : BitVec 4))
  | .nrHighRegisterSpace half => .narrow half
  | .tLdrPc rd word8 => .narrow (encodeImm8 0x4800#16 rd word8)
  | .tStrhReg ro rb rd => .narrow (encodeLow3 0x5200#16 ro rb rd)
  | .tLdsbReg ro rb rd => .narrow (encodeLow3 0x5600#16 ro rb rd)
  | .tLdrhReg ro rb rd => .narrow (encodeLow3 0x5A00#16 ro rb rd)
  | .tLdshReg ro rb rd => .narrow (encodeLow3 0x5E00#16 ro rb rd)
  | .tStrReg ro rb rd => .narrow (encodeLow3 0x5000#16 ro rb rd)
  | .tStrbReg ro rb rd => .narrow (encodeLow3 0x5400#16 ro rb rd)
  | .tLdrReg ro rb rd => .narrow (encodeLow3 0x5800#16 ro rb rd)
  | .tLdrbReg ro rb rd => .narrow (encodeLow3 0x5C00#16 ro rb rd)
  | .tStrImm offset5 rb rd => .narrow (encodeOff5 0x6000#16 offset5 rb rd)
  | .tLdrImm offset5 rb rd => .narrow (encodeOff5 0x6800#16 offset5 rb rd)
  | .tStrbImm offset5 rb rd => .narrow (encodeOff5 0x7000#16 offset5 rb rd)
  | .tLdrbImm offset5 rb rd => .narrow (encodeOff5 0x7800#16 offset5 rb rd)
  | .tStrhImm offset5 rb rd => .narrow (encodeOff5 0x8000#16 offset5 rb rd)
  | .tLdrhImm offset5 rb rd => .narrow (encodeOff5 0x8800#16 offset5 rb rd)
  | .tStrSp rd word8 => .narrow (encodeImm8 0x9000#16 rd word8)
  | .tLdrSp rd word8 => .narrow (encodeImm8 0x9800#16 rd word8)
  | .tAddPc rd word8 => .narrow (encodeImm8 0xA000#16 rd word8)
  | .tAddSp rd word8 => .narrow (encodeImm8 0xA800#16 rd word8)
  | .tAddSpImm sword7 => .narrow (0xB000#16 ||| putField 16 0 sword7)
  | .tSubSpImm sword7 => .narrow (0xB080#16 ||| putField 16 0 sword7)
  | .tPush lr list => .narrow (0xB400#16 ||| putBit 16 8 lr ||| putField 16 0 list)
  | .tPop list => .narrow (0xBC00#16 ||| putField 16 0 list)
  | .tPopPc list => .narrow (0xBD00#16 ||| putField 16 0 list)
  | .tStmia rb list => .narrow (encodeImm8 0xC000#16 rb list)
  | .tLdmia rb list => .narrow (encodeImm8 0xC800#16 rb list)
  | .tSwi value8 => .narrow (0xDF00#16 ||| putField 16 0 value8)
  | .nrCond14 half => .narrow half
  | .tBCond c soffset8 => .narrow (0xD000#16 ||| putField 16 8 c.toBits ||| putField 16 0 soffset8)
  | .tB offset11 => .narrow (0xE000#16 ||| putField 16 0 offset11)
  | .tBlFirst offset11 => .narrow (0xF000#16 ||| putField 16 0 offset11)
  | .tBlSecond offset11 => .narrow (0xF800#16 ||| putField 16 0 offset11)
  | .nrNarrow half => .narrow half

/-! ### Categories -/

/-- The category of a decoded instruction (R103, R133); `none` for `NotRecognized`. -/
def Instr.category : Instr → Option Category
  | .swi _ _ => some .softwareInterrupt
  | .bx _ _ => some .branchExchange
  | .b _ _ => some .branch
  | .bl _ _ => some .branch
  | .mul _ _ _ _ _ _ => some .multiply
  | .mla _ _ _ _ _ _ => some .multiply
  | .umull _ _ _ _ _ _ => some .multiplyLong
  | .umlal _ _ _ _ _ _ => some .multiplyLong
  | .smull _ _ _ _ _ _ => some .multiplyLong
  | .smlal _ _ _ _ _ _ => some .multiplyLong
  | .swp _ _ _ _ => some .swap
  | .swpb _ _ _ _ => some .swap
  | .ldrhImm _ _ _ _ _ _ _ => some .halfwordTransfer
  | .ldrhReg _ _ _ _ _ _ _ => some .halfwordTransfer
  | .ldrsbImm _ _ _ _ _ _ _ => some .halfwordTransfer
  | .ldrsbReg _ _ _ _ _ _ _ => some .halfwordTransfer
  | .ldrshImm _ _ _ _ _ _ _ => some .halfwordTransfer
  | .ldrshReg _ _ _ _ _ _ _ => some .halfwordTransfer
  | .strhImm _ _ _ _ _ _ _ => some .halfwordTransfer
  | .strhReg _ _ _ _ _ _ _ => some .halfwordTransfer
  | .nrHalfwordSpace _ => none
  | .andImm _ _ _ _ _ _ => some .dataProcessing
  | .andRegImm _ _ _ _ _ _ _ => some .dataProcessing
  | .andRegReg _ _ _ _ _ _ _ => some .dataProcessing
  | .eorImm _ _ _ _ _ _ => some .dataProcessing
  | .eorRegImm _ _ _ _ _ _ _ => some .dataProcessing
  | .eorRegReg _ _ _ _ _ _ _ => some .dataProcessing
  | .subImm _ _ _ _ _ _ => some .dataProcessing
  | .subRegImm _ _ _ _ _ _ _ => some .dataProcessing
  | .subRegReg _ _ _ _ _ _ _ => some .dataProcessing
  | .rsbImm _ _ _ _ _ _ => some .dataProcessing
  | .rsbRegImm _ _ _ _ _ _ _ => some .dataProcessing
  | .rsbRegReg _ _ _ _ _ _ _ => some .dataProcessing
  | .addImm _ _ _ _ _ _ => some .dataProcessing
  | .addRegImm _ _ _ _ _ _ _ => some .dataProcessing
  | .addRegReg _ _ _ _ _ _ _ => some .dataProcessing
  | .adcImm _ _ _ _ _ _ => some .dataProcessing
  | .adcRegImm _ _ _ _ _ _ _ => some .dataProcessing
  | .adcRegReg _ _ _ _ _ _ _ => some .dataProcessing
  | .sbcImm _ _ _ _ _ _ => some .dataProcessing
  | .sbcRegImm _ _ _ _ _ _ _ => some .dataProcessing
  | .sbcRegReg _ _ _ _ _ _ _ => some .dataProcessing
  | .rscImm _ _ _ _ _ _ => some .dataProcessing
  | .rscRegImm _ _ _ _ _ _ _ => some .dataProcessing
  | .rscRegReg _ _ _ _ _ _ _ => some .dataProcessing
  | .tstImm _ _ _ _ _ _ => some .dataProcessing
  | .tstRegImm _ _ _ _ _ _ _ => some .dataProcessing
  | .tstRegReg _ _ _ _ _ _ _ => some .dataProcessing
  | .teqImm _ _ _ _ _ _ => some .dataProcessing
  | .teqRegImm _ _ _ _ _ _ _ => some .dataProcessing
  | .teqRegReg _ _ _ _ _ _ _ => some .dataProcessing
  | .cmpImm _ _ _ _ _ _ => some .dataProcessing
  | .cmpRegImm _ _ _ _ _ _ _ => some .dataProcessing
  | .cmpRegReg _ _ _ _ _ _ _ => some .dataProcessing
  | .cmnImm _ _ _ _ _ _ => some .dataProcessing
  | .cmnRegImm _ _ _ _ _ _ _ => some .dataProcessing
  | .cmnRegReg _ _ _ _ _ _ _ => some .dataProcessing
  | .orrImm _ _ _ _ _ _ => some .dataProcessing
  | .orrRegImm _ _ _ _ _ _ _ => some .dataProcessing
  | .orrRegReg _ _ _ _ _ _ _ => some .dataProcessing
  | .movImm _ _ _ _ _ _ => some .dataProcessing
  | .movRegImm _ _ _ _ _ _ _ => some .dataProcessing
  | .movRegReg _ _ _ _ _ _ _ => some .dataProcessing
  | .bicImm _ _ _ _ _ _ => some .dataProcessing
  | .bicRegImm _ _ _ _ _ _ _ => some .dataProcessing
  | .bicRegReg _ _ _ _ _ _ _ => some .dataProcessing
  | .mvnImm _ _ _ _ _ _ => some .dataProcessing
  | .mvnRegImm _ _ _ _ _ _ _ => some .dataProcessing
  | .mvnRegReg _ _ _ _ _ _ _ => some .dataProcessing
  | .ldrImm _ _ _ _ _ _ _ => some .singleTransfer
  | .ldrReg _ _ _ _ _ _ _ _ _ => some .singleTransfer
  | .ldrbImm _ _ _ _ _ _ _ => some .singleTransfer
  | .ldrbReg _ _ _ _ _ _ _ _ _ => some .singleTransfer
  | .strImm _ _ _ _ _ _ _ => some .singleTransfer
  | .strReg _ _ _ _ _ _ _ _ _ => some .singleTransfer
  | .strbImm _ _ _ _ _ _ _ => some .singleTransfer
  | .strbReg _ _ _ _ _ _ _ _ _ => some .singleTransfer
  | .nrUndefinedSpace _ => none
  | .ldm _ _ _ _ _ _ _ => some .blockTransfer
  | .stm _ _ _ _ _ _ _ => some .blockTransfer
  | .nrCoprocessorSpace _ => none
  | .tAddReg _ _ _ => some .narrow2
  | .tSubReg _ _ _ => some .narrow2
  | .tAddImm3 _ _ _ => some .narrow2
  | .tSubImm3 _ _ _ => some .narrow2
  | .tLslImm _ _ _ => some .narrow1
  | .tLsrImm _ _ _ => some .narrow1
  | .tAsrImm _ _ _ => some .narrow1
  | .tMovImm _ _ => some .narrow3
  | .tCmpImm _ _ => some .narrow3
  | .tAddImm8 _ _ => some .narrow3
  | .tSubImm8 _ _ => some .narrow3
  | .tAnd _ _ => some .narrow4
  | .tEor _ _ => some .narrow4
  | .tLsl _ _ => some .narrow4
  | .tLsr _ _ => some .narrow4
  | .tAsr _ _ => some .narrow4
  | .tAdc _ _ => some .narrow4
  | .tSbc _ _ => some .narrow4
  | .tRor _ _ => some .narrow4
  | .tTst _ _ => some .narrow4
  | .tNeg _ _ => some .narrow4
  | .tCmp _ _ => some .narrow4
  | .tCmn _ _ => some .narrow4
  | .tOrr _ _ => some .narrow4
  | .tMul _ _ => some .narrow4
  | .tBic _ _ => some .narrow4
  | .tMvn _ _ => some .narrow4
  | .tAddHiH1 _ _ => some .narrow5
  | .tAddHiH2 _ _ => some .narrow5
  | .tCmpHiH1 _ _ => some .narrow5
  | .tCmpHiH2 _ _ => some .narrow5
  | .tMovHiH1 _ _ => some .narrow5
  | .tMovHiH2 _ _ => some .narrow5
  | .tBx _ => some .narrow5
  | .nrHighRegisterSpace _ => none
  | .tLdrPc _ _ => some .narrow6
  | .tStrhReg _ _ _ => some .narrow8
  | .tLdsbReg _ _ _ => some .narrow8
  | .tLdrhReg _ _ _ => some .narrow8
  | .tLdshReg _ _ _ => some .narrow8
  | .tStrReg _ _ _ => some .narrow7
  | .tStrbReg _ _ _ => some .narrow7
  | .tLdrReg _ _ _ => some .narrow7
  | .tLdrbReg _ _ _ => some .narrow7
  | .tStrImm _ _ _ => some .narrow9
  | .tLdrImm _ _ _ => some .narrow9
  | .tStrbImm _ _ _ => some .narrow9
  | .tLdrbImm _ _ _ => some .narrow9
  | .tStrhImm _ _ _ => some .narrow10
  | .tLdrhImm _ _ _ => some .narrow10
  | .tStrSp _ _ => some .narrow11
  | .tLdrSp _ _ => some .narrow11
  | .tAddPc _ _ => some .narrow12
  | .tAddSp _ _ => some .narrow12
  | .tAddSpImm _ => some .narrow13
  | .tSubSpImm _ => some .narrow13
  | .tPush _ _ => some .narrow14
  | .tPop _ => some .narrow14
  | .tPopPc _ => some .narrow14
  | .tStmia _ _ => some .narrow15
  | .tLdmia _ _ => some .narrow15
  | .tSwi _ => some .narrow17
  | .nrCond14 _ => none
  | .tBCond _ _ => some .narrow16
  | .tB _ => some .narrow18
  | .tBlFirst _ => some .narrow19
  | .tBlSecond _ => some .narrow19
  | .nrNarrow _ => none

end Sys2Proof
end

