-- ==== Sys2Proof/Machine/State.lean ====
section
/-! DEFINITION. The state of the machine (10_state.md R20 to R48), the reasons a step can stop (R9), and the state after reset
(R50, R470). Every field is plain data. -/

namespace Sys2Proof.Machine

open Sys2Proof

/-- The six copies of r13, or of r14 (R22). -/
structure Banked where
  usr : Word
  fiq : Word
  irq : Word
  svc : Word
  abt : Word
  und : Word
  deriving DecidableEq, Repr

/-- The thirty general registers other than r15 (R22). -/
structure RegFile where
  /-- r0 to r7 -/
  low : Vector Word 8
  /-- r8_common to r12_common -/
  mid : Vector Word 5
  /-- r8_fiq to r12_fiq -/
  midFiq : Vector Word 5
  /-- r13_usr, r13_fiq, r13_irq, r13_svc, r13_abt, r13_und -/
  sp : Banked
  /-- r14_usr, r14_fiq, r14_irq, r14_svc, r14_abt, r14_und -/
  lr : Banked
  deriving DecidableEq, Repr

/-- The five saved status registers (R33). -/
structure SpsrFile where
  fiq : Psr
  irq : Psr
  svc : Psr
  abt : Psr
  und : Psr
  deriving DecidableEq, Repr

/-- One access of the core to a byte of a DEVICE region, which the environment sees (R63, R76). -/
inductive BusEvent where
  | read (addr : Word) (b : Byte)
  | write (addr : Word) (b : Byte)
  deriving DecidableEq, Repr

/-- The bytes of the RAM and ROM regions: strictly rising addresses, and no entry that holds the byte 0, which is what an
address without an entry reads as (R474; log entry 3). -/
abbrev Memory := List Host.Cell

/-- The canonical form of `Memory`. -/
abbrev Memory.wf (m : Memory) : Prop := m.Pairwise (fun x y => x.1 < y.1) ∧ ∀ x ∈ m, x.2 ≠ 0

/-- The state: that of the block (R20 to R44), the memory behind the bus (R49, R67), the parameters of R12, and two fields of the
model's own, `draws` and `bus`. -/
structure State where
  /-- r0 to r14 in all their copies (R22) -/
  regs : RegFile
  /-- r15: the address of the next instruction, and during a step that of the instruction itself (R27) -/
  pc : Word
  /-- the current program status register (R30) -/
  cpsr : Psr
  /-- the saved program status registers (R33) -/
  spsr : SpsrFile
  /-- `IE`, the enable mask (R40) -/
  ie : BitVec 14
  /-- `IF`, the pending mask (R41) -/
  ifr : BitVec 14
  /-- `IME`, the master enable (R42) -/
  ime : Bool
  /-- `HALTED` (R43) -/
  halted : Bool
  /-- `CYCLES`, unbounded (R44) -/
  cycles : Nat
  /-- the bytes of the RAM and ROM regions (R67) -/
  mem : Memory
  /-- the parameters of R12; no step writes them (R49; log entry 1) -/
  cfg : Config
  /-- the model's own: how many free values have been drawn (R17; log entry 2) -/
  draws : Nat
  /-- the model's own: the accesses delivered to DEVICE regions, newest first (R63; log entry 7) -/
  bus : List BusEvent
  deriving DecidableEq, Repr

/-- Why a step stops. The state after a fault is the state before the step (R149), so a fault carries none. The first two are
outcomes of the hardware (R9). The others are the reasons of `Refused` (R9, R306 and 93_implementation_defined.md section
1): the spec declines to give the combination a meaning. All are safe: the model stops where hardware might go on. -/
inductive Fault where
  /-- `DecodeError(ia, word)` (R304), raised by the six NotRecognized instructions; safe -/
  | decodeError (ia word : Word)
  /-- `NotImplemented(ia, word, category)` (R305), raised by the step for a category in `UNIMPLEMENTED_SET`; safe -/
  | notImplemented (ia word : Word) (category : Category)
  /-- "r15 with register-specified shift" (R167), raised by data processing; safe -/
  | r15WithRegisterShift
  /-- "r15 in multiply" (R214), raised by the multiplies; safe -/
  | r15InMultiply
  /-- "RdHi = RdLo" (R214), raised by the long multiplies; safe -/
  | rdHiEqRdLo
  /-- "r15 in swap" (R291), raised by SWP and SWPB; safe -/
  | r15InSwap
  /-- "base r15 with write-back" (R255), raised by the wide single transfers; safe -/
  | baseR15WithWriteback
  /-- "empty list" (R289, R381), raised by the block transfers; safe -/
  | emptyList
  /-- "base r15" (R289), raised by the wide block transfers; safe -/
  | baseR15
  /-- "user-bank transfer with writeback" (R289), raised by the wide block transfers; safe -/
  | userBankWithWriteback
  /-- "base in list with writeback" (R289, R385), raised by the block transfers; safe -/
  | baseInListWithWriteback
  /-- "SPSR in USR/SYS" (R33), raised by the exception-return forms; safe -/
  | spsrInUsrSys
  /-- "illegal mode" (R38), raised by the exception-return forms; safe -/
  | illegalMode
  /-- "misaligned" (R73), raised by data accesses under the policy `refuse`; safe -/
  | misaligned
  deriving DecidableEq, Repr

/-- Why an instruction has no meaning in the model. -/
inductive Refusal where
  /-- an instruction that the model does not give a meaning yet; raised by `exec`; safe -/
  | notModelled (mnemonic : String)
  deriving DecidableEq, Repr

/-- What a meaning and a step answer. -/
abbrev Out := Host.Outcome State Fault Refusal

/-- Six copies that all hold zero. -/
def Banked.zero : Banked where
  usr := 0
  fiq := 0
  irq := 0
  svc := 0
  abt := 0
  und := 0

/-- The effect of `reset()` on the state of the block, for given parameters and memory, which `reset()` does not touch (R470,
R474). -/
def State.resetWith (cfg : Config) (mem : Memory) (draws : Nat) (bus : List BusEvent) : State where
  regs :=
    { low := Vector.replicate 8 0
      mid := Vector.replicate 5 0
      midFiq := Vector.replicate 5 0
      sp := { Banked.zero with usr := cfg.resetSp }
      lr := Banked.zero }
  pc := 0
  cpsr := cfg.resetCpsr
  spsr := { fiq := Psr.zero, irq := Psr.zero, svc := Psr.zero, abt := Psr.zero, und := Psr.zero }
  ie := 0
  ifr := 0
  ime := false
  halted := false
  cycles := 0
  mem := mem
  cfg := cfg
  draws := draws
  bus := bus

/-- The machine right after reset with the default parameters (R12, R50), memory with nothing listed, and nothing drawn or
delivered yet. -/
def State.reset : State := State.resetWith Config.default [] 0 []

end Sys2Proof.Machine
end

