-- ==== Sys2Proof/Machine/Ops.lean ====
section
/-! DEFINITION. The named operations over registers, status registers, the interrupt controller, the bus and memory, and the
entry into and the return from an exception (10_state.md, 20_memory.md, 60_exceptions.md). -/

namespace Sys2Proof.Machine

open Sys2Proof

/-! ### Named updates of the state -/

def State.setRegs (s : State) (r : RegFile) : State := { s with regs := r }
def State.setRawPc (s : State) (a : Word) : State := { s with pc := a }
def State.setCpsr (s : State) (p : Psr) : State := { s with cpsr := p }
def State.setSpsrs (s : State) (f : SpsrFile) : State := { s with spsr := f }
def State.setIe (s : State) (x : BitVec 14) : State := { s with ie := x }
def State.setIfr (s : State) (x : BitVec 14) : State := { s with ifr := x }
def State.setIme (s : State) (b : Bool) : State := { s with ime := b }
def State.setHalted (s : State) (b : Bool) : State := { s with halted := b }
def State.setCycles (s : State) (n : Nat) : State := { s with cycles := n }
def State.setMem (s : State) (m : Memory) : State := { s with mem := m }
def State.setCfg (s : State) (c : Config) : State := { s with cfg := c }
def State.setDraws (s : State) (n : Nat) : State := { s with draws := n }
def State.setBus (s : State) (b : List BusEvent) : State := { s with bus := b }

/-- `CYCLES <- CYCLES + cost` (R148). -/
def State.addCycles (s : State) (cost : Nat) : State := s.setCycles (s.cycles + cost)

/-- The next draw is a new one (R17). -/
def State.bumpDraws (s : State) : State := s.setDraws (s.draws + 1)

/-! ### General registers -/

/-- The physical general registers (R22): r0 to r7 by their number, r8 to r12 by their number less 8. -/
inductive PhysReg where
  | low (i : Fin 8)
  | mid (i : Fin 5)
  | midFiq (i : Fin 5)
  | sp (b : Bank)
  | lr (b : Bank)
  | pc
  deriving DecidableEq, Repr

/-- The copy of a banked register. -/
def Banked.get (r : Banked) : Bank → Word
  | .usr => r.usr
  | .fiq => r.fiq
  | .irq => r.irq
  | .svc => r.svc
  | .abt => r.abt
  | .und => r.und

/-- Writing one copy leaves the others (R23). -/
def Banked.set (r : Banked) (b : Bank) (v : Word) : Banked :=
  match b with
  | .usr => { r with usr := v }
  | .fiq => { r with fiq := v }
  | .irq => { r with irq := v }
  | .svc => { r with svc := v }
  | .abt => { r with abt := v }
  | .und => { r with und := v }

/-- The value of a physical register. -/
def State.phys (s : State) : PhysReg → Word
  | .low i => s.regs.low[i]
  | .mid i => s.regs.mid[i]
  | .midFiq i => s.regs.midFiq[i]
  | .sp b => s.regs.sp.get b
  | .lr b => s.regs.lr.get b
  | .pc => s.pc

/-- `v & 0xFFFFFFFC` in the wide form, `v & 0xFFFFFFFE` in the narrow form (R29). -/
def alignPc (t : Bool) (v : Word) : Word := if t then v &&& 0xFFFFFFFE#32 else v &&& 0xFFFFFFFC#32

/-- `pc <- v` (R29). That the step is redirected is said by the way the meaning ends (`State.finishAt`). -/
def State.branchTo (s : State) (v : Word) : State := s.setRawPc (alignPc s.cpsr.t v)

/-- Writing a physical register; r15 is masked (R24, R29). -/
def State.setPhys (s : State) (p : PhysReg) (v : Word) : State :=
  match p with
  | .low i => s.setRegs { s.regs with low := s.regs.low.set i v }
  | .mid i => s.setRegs { s.regs with mid := s.regs.mid.set i v }
  | .midFiq i => s.setRegs { s.regs with midFiq := s.regs.midFiq.set i v }
  | .sp b => s.setRegs { s.regs with sp := s.regs.sp.set b v }
  | .lr b => s.setRegs { s.regs with lr := s.regs.lr.set b v }
  | .pc => s.branchTo v

/-- The active view (R24): the physical register that number `i` names under mode number `m`. -/
def physOf (m : BitVec 5) (i : Reg) : PhysReg :=
  if h : i.val < 8 then .low ⟨i.val, h⟩
  else if h : i.val < 13 then
    if isFiq m then .midFiq ⟨i.val - 8, by omega⟩ else .mid ⟨i.val - 8, by omega⟩
  else if i = 13 then .sp (bankOf m)
  else if i = 14 then .lr (bankOf m)
  else .pc

/-- `x[i]` (R14, R24). -/
def State.reg (s : State) (i : Reg) : Word := s.phys (physOf s.cpsr.m i)

/-- `x[i] <- v` (R14, R24). -/
def State.setReg (s : State) (i : Reg) (v : Word) : State := s.setPhys (physOf s.cpsr.m i) v

/-- `x_usr[i]` (R14, R24): the view of USR whatever the mode. -/
def State.usrReg (s : State) (i : Reg) : Word := s.phys (physOf Mode.usr.bits i)

/-- `x_usr[i] <- v` (R14, R24). -/
def State.setUsrReg (s : State) (i : Reg) (v : Word) : State := s.setPhys (physOf Mode.usr.bits i) v

/-- The form of an instruction (R2). -/
inductive Form where
  | wide | narrow
  deriving DecidableEq, Repr

/-- The width of an instruction in bytes, by which the program counter advances (R27, R147). -/
def Form.size : Form → Word
  | .wide => 4
  | .narrow => 2

/-- `PIPE` (R10, R28). -/
def Form.pipe : Form → Word
  | .wide => 8
  | .narrow => 4

/-- `RdOp(i)` (R14, R28): the stored program counter is the instruction's own address `ia` during the step. -/
def State.rdOp (s : State) (f : Form) (i : Reg) : Word := if i = 15 then s.pc + f.pipe else s.reg i

/-! ### How a meaning ends -/

/-- A `refuse` condition of a rule (R16): the step ends with the fault and no effect (R149). -/
def refuseIf (b : Bool) (r : Fault) (k : Out) : Out := if b then .fault r else k

/-- A step that was not redirected: the program counter moves past the instruction (R147, R148). -/
def State.finish (s : State) (f : Form) (cost : Nat) : Out := .next ((s.setRawPc (s.pc + f.size)).addCycles cost)

/-- A step redirected by `pc <- v` (R29, R147, R148). -/
def State.finishAt (s : State) (v : Word) (cost : Nat) : Out := .next ((s.branchTo v).addCycles cost)

/-! ### Saved status registers, entry and return -/

/-- `SPSR_<mode>` (R33). -/
def SpsrFile.get (f : SpsrFile) : ExcMode → Psr
  | .fiq => f.fiq
  | .irq => f.irq
  | .svc => f.svc
  | .abt => f.abt
  | .und => f.und

/-- Writing one saved status register. -/
def SpsrFile.set (f : SpsrFile) (e : ExcMode) (p : Psr) : SpsrFile :=
  match e with
  | .fiq => { f with fiq := p }
  | .irq => { f with irq := p }
  | .svc => { f with svc := p }
  | .abt => { f with abt := p }
  | .und => { f with und := p }

/-- The exception mode whose SPSR the current mode has; none in USR and SYS (R33). -/
def State.excMode (s : State) : Option ExcMode := (Mode.ofBits s.cpsr.m).bind Mode.exc

/-- `switchMode(newMode)` (R35): the mode field alone; the physical registers stay and the view of R24 changes. -/
def State.switchMode (s : State) (md : Mode) : State := s.setCpsr { s.cpsr with m := md.bits }

/-- `Enter(mode, vector, link)` (R440). The writes go to the bank of the target mode. -/
def State.enter (s : State) (e : ExcMode) (vector link : Word) : State :=
  let u := ((s.setSpsrs (s.spsr.set e s.cpsr)).setPhys (.lr e.toMode.bank) link).switchMode e.toMode
  (u.setCpsr { u.cpsr with i := true, t := false }).setRawPc (vector &&& 0xFFFFFFFC#32)

/-- Why `CPSR <- SPSR` is refused, if it is (R33, R38). -/
def State.restoreFault (s : State) : Option Fault :=
  match s.excMode with
  | none => some .spsrInUsrSys
  | some e => if (Mode.ofBits (s.spsr.get e).m).isSome then none else some .illegalMode

/-- `CPSR <- SPSR` where it is not refused (R39): all 32 bits, so mode, flags, I, F and T at once. -/
def State.restoreCpsr (s : State) : State :=
  match s.excMode with
  | none => s
  | some e => s.setCpsr (s.spsr.get e)

/-- The return from an exception (R185, R288): the refusals of `CPSR <- SPSR`, then CPSR, then `pc <- v` masked by the restored
`T`. `before` is the state in which the refusals are tested and `s` the one the return is made in. -/
def State.exceptionReturn (before s : State) (v : Word) (cost : Nat) : Out :=
  match before.restoreFault with
  | some r => .fault r
  | none => s.restoreCpsr.finishAt v cost

/-! ### Interrupt requests -/

/-- The requests of a mask of types, each as R428: the pending bits are set, and a request of an enabled type ends the halt
whatever IME is. -/
def State.requestMask (s : State) (mask : BitVec 14) : State :=
  (s.setIfr (s.ifr ||| mask)).setHalted (s.halted && (s.ie &&& mask) == 0)

/-! ### Memory -/

/-- The byte at an address (R62, R67); an address without an entry reads as 0 (R474). -/
def Memory.read : Memory → Nat → Byte
  | [], _ => 0
  | c :: m, a => if c.1 = a then c.2 else Memory.read m a

/-- Storing a byte keeps the canonical form: no entry holds 0. -/
def Memory.write : Memory → Nat → Byte → Memory
  | [], a, b => if b = 0 then [] else [(a, b)]
  | c :: m, a, b =>
    if c.1 < a then c :: Memory.write m a b
    else if c.1 = a then (if b = 0 then m else (a, b) :: m)
    else if b = 0 then c :: m else (a, b) :: c :: m

/-- The kind of the region that owns an address: the first range that holds it, else OPEN0 (R67, R68, R70). -/
def kindAt (map : List Region) (p : Word) : RegionKind :=
  match map.find? (fun r => r.lo ≤ p.toNat && p.toNat ≤ r.hi) with
  | some r => r.kind
  | none => .open0

/-- The kind of an address under the configured map. -/
def State.kind (s : State) (p : Word) : RegionKind := kindAt s.cfg.memMap p

/-- The byte an interrupt-controller address reads as (R423); a byte of an INTC region that no register occupies reads as 0
(log entry 11). -/
def State.intcRead (s : State) (p : Word) : Byte :=
  if p = s.cfg.addrIe then s.ie.extractLsb' 0 8
  else if p = s.cfg.addrIe + 1 then (s.ie.extractLsb' 8 6).setWidth 8
  else if p = s.cfg.addrIf then s.ifr.extractLsb' 0 8
  else if p = s.cfg.addrIf + 1 then (s.ifr.extractLsb' 8 6).setWidth 8
  else if p = s.cfg.addrIme then putBit 8 0 s.ime
  else 0

/-- The bits of `IE` or `IF` that a byte written at its low (`hi = false`) or high byte covers (R424, R425). -/
def intcLane (hi : Bool) (b : Byte) : BitVec 14 := if hi then b.setWidth 14 <<< 8 else b.setWidth 14

/-- The mask of those bits. -/
def intcLaneMask (hi : Bool) : BitVec 14 := intcLane hi 0xFF#8

/-- Writing a byte to an interrupt-controller address (R424 to R427). -/
def State.intcWrite (s : State) (p : Word) (b : Byte) : State :=
  if p = s.cfg.addrIe then s.setIe ((s.ie &&& ~~~ intcLaneMask false) ||| intcLane false b)
  else if p = s.cfg.addrIe + 1 then s.setIe ((s.ie &&& ~~~ intcLaneMask true) ||| intcLane true b)
  else if p = s.cfg.addrIf then s.setIfr (s.ifr &&& ~~~ intcLane false b)
  else if p = s.cfg.addrIf + 1 then s.setIfr (s.ifr &&& ~~~ intcLane true b)
  else if p = s.cfg.addrIme then s.setIme (b.getLsbD 0)
  else if p = s.cfg.addrHaltcnt then (if b.getLsbD 7 then s else s.setHalted true)
  else s

/-- `ByteRead(p)` (R62). A DEVICE byte is a free value, drawn anew each time, and the access is delivered (R76). -/
def State.byteRead (s : State) (p : Word) : Byte × State :=
  match s.kind p with
  | .ram => (s.mem.read p.toNat, s)
  | .rom => (s.mem.read p.toNat, s)
  | .intc => (s.intcRead p, s)
  | .device =>
    (Config.deviceByte s.draws p, (s.setBus (.read p (Config.deviceByte s.draws p) :: s.bus)).bumpDraws)
  | .open1 => (0xFF#8, s)
  | .open0 => (0x00#8, s)

/-- `ByteWrite(p, b)` (R63). A DEVICE byte is delivered to the environment, whose requests take effect at once (R429). -/
def State.byteWrite (s : State) (p : Word) (b : Byte) : State :=
  match s.kind p with
  | .ram => s.setMem (s.mem.write p.toNat b)
  | .rom => s
  | .intc => s.intcWrite p b
  | .device => ((s.setBus (.write p b :: s.bus)).bumpDraws).requestMask (Config.deviceRequests s.draws p b)
  | .open1 => s
  | .open0 => s

/-- The bytes from `p` upwards, in ascending order, addresses modulo 2^32 (R62). -/
def State.readBytes (s : State) (p : Word) : Nat → List Byte × State
  | 0 => ([], s)
  | n + 1 =>
    let r := s.byteRead p
    let rest := r.2.readBytes (p + 1) n
    (r.1 :: rest.1, rest.2)

/-- Writing bytes from `p` upwards, in ascending order (R63). -/
def State.writeBytes (s : State) (p : Word) : List Byte → State
  | [] => s
  | b :: bs => (s.byteWrite p b).writeBytes (p + 1) bs

/-- The widths of the bus (R61). -/
inductive Width where
  | byte | half | word
  deriving DecidableEq, Repr

/-- The number of bytes. -/
def Width.bytes : Width → Nat
  | .byte => 1
  | .half => 2
  | .word => 4

/-- `addr & ~(n - 1)` (R73). -/
def Width.alignDown (w : Width) (a : Word) : Word :=
  match w with
  | .byte => a
  | .half => a &&& 0xFFFFFFFE#32
  | .word => a &&& 0xFFFFFFFC#32

/-- `addr mod n = 0` (R73). -/
def Width.aligned (w : Width) (a : Word) : Bool := w.alignDown a == a

/-- Whether a data access is refused (R73): the policy is `refuse` and the address is not aligned. -/
def State.misaligned (s : State) (w : Width) (a : Word) : Bool := s.cfg.misalign == .refuse && !w.aligned a

/-- `MemRead(addr, n)` of the bytes at the aligned address, zero-extended (R62, R65). -/
def State.memRead (s : State) (w : Width) (a : Word) : Word × State :=
  let r := s.readBytes (w.alignDown a) w.bytes
  (joinBytes r.1, r.2)

/-- `MemWrite(addr, n, v)` (R63, R65). -/
def State.memWrite (s : State) (w : Width) (a v : Word) : State := s.writeBytes (w.alignDown a) (splitBytes v w.bytes)

/-- What a load does with the bytes it reads (R259, R260, R264 to R266). -/
inductive LoadKind where
  | word | byte | half | signedByte | signedHalf
  deriving DecidableEq, Repr

/-- The width of the access. -/
def LoadKind.width : LoadKind → Width
  | .word => .word
  | .byte => .byte
  | .half => .half
  | .signedByte => .byte
  | .signedHalf => .half

/-- The extension of the value read to 32 bits (R269). -/
def LoadKind.extend (k : LoadKind) (v : Word) : Word :=
  match k with
  | .word => v
  | .byte => v
  | .half => v
  | .signedByte => sext (v.setWidth 8)
  | .signedHalf => sext (v.setWidth 16)

/-- The value of a load and the state after its access, under the policies of R73 (a misaligned access under `refuse` never
comes here). -/
def State.load (s : State) (k : LoadKind) (a : Word) : Word × State :=
  if s.cfg.misalign = .rotate && !k.width.aligned a then
    match k with
    | .word => ((s.memRead .word a).1.rotateRight (8 * (a.extractLsb' 0 2).toNat), (s.memRead .word a).2)
    | .half => ((s.memRead .half a).1.rotateRight 8, (s.memRead .half a).2)
    | .signedHalf => (LoadKind.extend .signedByte (s.memRead .byte a).1, (s.memRead .byte a).2)
    | .byte => s.memRead .byte a
    | .signedByte => (LoadKind.extend .signedByte (s.memRead .byte a).1, (s.memRead .byte a).2)
  else (k.extend (s.memRead k.width a).1, (s.memRead k.width a).2)

/-- Consecutive words from `a`, in ascending order (R281, R284). -/
def State.readWords (s : State) (a : Word) : Nat → List Word × State
  | 0 => ([], s)
  | n + 1 =>
    let r := s.memRead .word a
    let rest := r.2.readWords (a + 4) n
    (r.1 :: rest.1, rest.2)

/-- Storing consecutive words from `a`, in ascending order (R281, R285). -/
def State.writeWords (s : State) (a : Word) : List Word → State
  | [] => s
  | v :: vs => (s.memWrite .word a v).writeWords (a + 4) vs

end Sys2Proof.Machine
end

