-- ==== Sys2Proof/Machine/Flags.lean ====
section
/-! DEFINITION. The four flags: the condition gate's predicates (R150), `AddWithCarry` (R17), and the flags of the arithmetic, the
logical and the multiply operations (R181, R182, R212, R213). -/

namespace Sys2Proof.Machine

open Sys2Proof

/-- N, Z, C and V (R30, R32). -/
structure Flags where
  n : Bool
  z : Bool
  c : Bool
  v : Bool
  deriving DecidableEq, Repr

/-- The flags of a status register. -/
def flagsOf (p : Psr) : Flags where
  n := p.n
  z := p.z
  c := p.c
  v := p.v

/-- A status register with other flags; its remaining 28 bits stay. -/
def withFlags (p : Psr) (f : Flags) : Psr := { p with n := f.n, z := f.z, c := f.c, v := f.v }

/-- The flags of CPSR. -/
def State.flags (s : State) : Flags := flagsOf s.cpsr

/-- Writing the flags into CPSR. -/
def State.setFlags (s : State) (f : Flags) : State := s.setCpsr (withFlags s.cpsr f)

/-- `CondPass(c)` (R150); `nv` is the parameter `COND_NV`. -/
def condPass (nv : Bool) (f : Flags) : Cond → Bool
  | .eq => f.z
  | .ne => !f.z
  | .cs => f.c
  | .cc => !f.c
  | .mi => f.n
  | .pl => !f.n
  | .vs => f.v
  | .vc => !f.v
  | .hi => f.c && !f.z
  | .ls => !f.c || f.z
  | .ge => f.n == f.v
  | .lt => f.n != f.v
  | .gt => !f.z && f.n == f.v
  | .le => f.z || f.n != f.v
  | .al => true
  | .nv => nv

/-- Whether the condition passes in a state. -/
def State.passes (s : State) (c : Cond) : Bool := condPass s.cfg.condNv s.flags c

/-- The condition gate of the wide form (R151): a failing condition costs 1 and has no other effect. -/
def gate (c : Cond) (s : State) (k : Out) : Out := if s.passes c then k else s.finish .wide 1

/-- The result of `AddWithCarry`, with its carry-out and overflow (R17). -/
structure Sum where
  r : Word
  cout : Bool
  vout : Bool
  deriving DecidableEq, Repr

/-- `AddWithCarry(a, b, c)` (R17): the exact sum in the integers, then its low 32 bits, whether it reaches 2^32, and the
signed-overflow test. -/
def addWithCarry (a b : Word) (c : Bool) : Sum where
  r := BitVec.ofNat 32 (a.toNat + b.toNat + c.toNat)
  cout := decide (2 ^ 32 ≤ a.toNat + b.toNat + c.toNat)
  vout := a.msb == b.msb && (BitVec.ofNat 32 (a.toNat + b.toNat + c.toNat)).msb != a.msb

/-- The flags of the arithmetic operations (R181). -/
def arithFlags (x : Sum) : Flags where
  n := x.r.msb
  z := x.r == 0
  c := x.cout
  v := x.vout

/-- The flags of the logical operations (R182): C from the shifter, V unchanged. -/
def logicFlags (old : Flags) (r : Word) (shc : Bool) : Flags where
  n := r.msb
  z := r == 0
  c := shc
  v := old.v

/-- The flags after a flag-setting multiply (R212, R213): N and Z from the result, C and V free values. -/
def mulFlags (draw : Nat) (n z : Bool) : Flags where
  n := n
  z := z
  c := Config.mulCarry draw
  v := Config.mulOverflow draw

/-- What a multiply does to the flags: nothing with `S = 0`, else `mulFlags` of a new draw (R212, R213). -/
def State.setMulFlags (s : State) (setsFlags n z : Bool) : State :=
  if setsFlags then (s.setFlags (mulFlags s.draws n z)).bumpDraws else s

/-- The result and the flags an operation gives for its first operand `a`, its second operand `op2` and the shifter's carry-out
(R188 to R203). -/
def aluResult (op : AluOp) (a op2 : Word) (shc : Bool) (old : Flags) : Word × Flags :=
  match op with
  | .and => (a &&& op2, logicFlags old (a &&& op2) shc)
  | .eor => (a ^^^ op2, logicFlags old (a ^^^ op2) shc)
  | .sub => ((addWithCarry a (~~~op2) true).r, arithFlags (addWithCarry a (~~~op2) true))
  | .rsb => ((addWithCarry op2 (~~~a) true).r, arithFlags (addWithCarry op2 (~~~a) true))
  | .add => ((addWithCarry a op2 false).r, arithFlags (addWithCarry a op2 false))
  | .adc => ((addWithCarry a op2 old.c).r, arithFlags (addWithCarry a op2 old.c))
  | .sbc => ((addWithCarry a (~~~op2) old.c).r, arithFlags (addWithCarry a (~~~op2) old.c))
  | .rsc => ((addWithCarry op2 (~~~a) old.c).r, arithFlags (addWithCarry op2 (~~~a) old.c))
  | .tst => (a &&& op2, logicFlags old (a &&& op2) shc)
  | .teq => (a ^^^ op2, logicFlags old (a ^^^ op2) shc)
  | .cmp => ((addWithCarry a (~~~op2) true).r, arithFlags (addWithCarry a (~~~op2) true))
  | .cmn => ((addWithCarry a op2 false).r, arithFlags (addWithCarry a op2 false))
  | .orr => (a ||| op2, logicFlags old (a ||| op2) shc)
  | .mov => (op2, logicFlags old op2 shc)
  | .bic => (a &&& ~~~op2, logicFlags old (a &&& ~~~op2) shc)
  | .mvn => (~~~op2, logicFlags old (~~~op2) shc)

/-- The four operations that write flags whatever S is, and no register (R183). -/
def compares : AluOp → Bool
  | .tst => true
  | .teq => true
  | .cmp => true
  | .cmn => true
  | .and => false
  | .eor => false
  | .sub => false
  | .rsb => false
  | .add => false
  | .adc => false
  | .sbc => false
  | .rsc => false
  | .orr => false
  | .mov => false
  | .bic => false
  | .mvn => false

end Sys2Proof.Machine
end

