-- ==== Sys2Proof/Machine/Operands.lean ====
section
/-! DEFINITION. Every operand form: the shifter operand (41_shifter_operand.md), the addresses of the single transfers (R251, R252,
R263), the register list and the addresses of the block transfers (R281, R282). -/

namespace Sys2Proof.Machine

open Sys2Proof

/-- The value and the carry-out of the shifter. -/
structure Shifted where
  op2 : Word
  shc : Bool
  deriving DecidableEq, Repr

/-- The immediate form (R161); `c` is the carry flag at the start of the step. -/
def immOperand (rotate : BitVec 4) (imm8 : BitVec 8) (c : Bool) : Shifted where
  op2 := (zext imm8).rotateRight (2 * rotate.toNat)
  shc := if rotate = 0 then c else ((zext imm8).rotateRight (2 * rotate.toNat)).msb

/-- `v` arithmetically shifted right by 32 or more: all bits are its bit 31. -/
def signFill (v : Word) : Word := if v.msb then 0xFFFFFFFF#32 else 0

/-- A shift by an immediate amount (R162 to R166); the amount 0 has a meaning of its own for each type. -/
def shiftImm (ty : ShiftType) (n : BitVec 5) (v : Word) (c : Bool) : Shifted :=
  match ty with
  | .lsl => if n = 0 then ⟨v, c⟩ else ⟨v <<< n.toNat, v.getLsbD (32 - n.toNat)⟩
  | .lsr => if n = 0 then ⟨0, v.msb⟩ else ⟨v >>> n.toNat, v.getLsbD (n.toNat - 1)⟩
  | .asr => if n = 0 then ⟨signFill v, v.msb⟩ else ⟨v.sshiftRight n.toNat, v.getLsbD (n.toNat - 1)⟩
  | .ror =>
    if n = 0 then ⟨putBit 32 31 c ||| (v >>> 1), v.getLsbD 0⟩
    else ⟨v.rotateRight n.toNat, (v.rotateRight n.toNat).msb⟩

/-- A shift by a register-held amount (R167 to R171). -/
def shiftReg (ty : ShiftType) (n : BitVec 8) (v : Word) (c : Bool) : Shifted :=
  if n = 0 then ⟨v, c⟩
  else
    match ty with
    | .lsl =>
      if n.toNat < 32 then ⟨v <<< n.toNat, v.getLsbD (32 - n.toNat)⟩
      else if n.toNat = 32 then ⟨0, v.getLsbD 0⟩
      else ⟨0, false⟩
    | .lsr =>
      if n.toNat < 32 then ⟨v >>> n.toNat, v.getLsbD (n.toNat - 1)⟩
      else if n.toNat = 32 then ⟨0, v.msb⟩
      else ⟨0, false⟩
    | .asr =>
      if n.toNat < 32 then ⟨v.sshiftRight n.toNat, v.getLsbD (n.toNat - 1)⟩ else ⟨signFill v, v.msb⟩
    | .ror =>
      if n.toNat % 32 = 0 then ⟨v, v.msb⟩
      else ⟨v.rotateRight (n.toNat % 32), (v.rotateRight (n.toNat % 32)).msb⟩

/-- The shifter operand of a data-processing instruction (R160 to R171). -/
def State.shifter (s : State) : Operand2 → Shifted
  | .imm rotate imm8 => immOperand rotate imm8 s.cpsr.c
  | .regImm amount ty rm => shiftImm ty amount (s.rdOp .wide rm) s.cpsr.c
  | .regReg rs ty rm => shiftReg ty ((s.reg rs).setWidth 8) (s.reg rm) s.cpsr.c

/-- Whether the form is refused (R167, R186): the shift amount is held in a register and one of the four register fields is 15,
one that the operation ignores included (log entry 10). -/
def operandRefused (o : Operand2) (rn rd : Reg) : Bool :=
  match o with
  | .imm _ _ => false
  | .regImm _ _ _ => false
  | .regReg rs _ rm => rd == 15 || rn == 15 || rm == 15 || rs == 15

/-- What the form of the operand adds to the cost (R167, R492). -/
def operandExtraCost (o : Operand2) (cost : Cost) : Nat :=
  match o with
  | .imm _ _ => 0
  | .regImm _ _ _ => 0
  | .regReg _ _ _ => cost.regShift

/-! ### Addresses of the single transfers -/

/-- The updated address `ea` (R251). -/
def effective (u : Bool) (base off : Word) : Word := if u then base + off else base - off

/-- The address accessed (R251). -/
def accessAddr (p u : Bool) (base off : Word) : Word := if p then effective u base off else base

/-- Whether the base is written back (R251, R253). -/
def writesBack (p w : Bool) : Bool := !p || w

/-- The write-back of a single transfer: the base register and the value it gets, or none (R251). -/
def writeBackOf (p u w : Bool) (rn : Reg) (base off : Word) : Option (Reg × Word) :=
  if writesBack p w then some (rn, effective u base off) else none

/-- Performing a write-back (R254). -/
def State.writeBack (s : State) : Option (Reg × Word) → State
  | none => s
  | some (rn, v) => s.setReg rn v

/-- The register offset of the word and byte forms (R252): the carry-out is discarded. -/
def State.shiftedOffset (s : State) (amount : BitVec 5) (ty : ShiftType) (rm : Reg) : Word :=
  (shiftImm ty amount (s.rdOp .wide rm) s.cpsr.c).op2

/-- The pipeline-adjusted program counter with bit 1 cleared (R350, R378). -/
def State.pcBase (s : State) : Word := (s.pc + 4) &&& 0xFFFFFFFD#32

/-! ### Register lists -/

/-- The sixteen register numbers in ascending order. -/
def allRegs : List Reg := [0, 1, 2, 3, 4, 5, 6, 7, 8, 9, 10, 11, 12, 13, 14, 15]

/-- The registers of a list, lowest first (R281). -/
def regsOf (list : BitVec 16) : List Reg := allRegs.filter (fun i => list.getLsbD i.val)

/-- `4n` for `n` registers. -/
def spanOf (n : Nat) : Word := BitVec.ofNat 32 (4 * n)

/-- `start` (R282). -/
def blockStart (p u : Bool) (base : Word) (n : Nat) : Word :=
  if u then (if p then base + 4 else base) else (if p then base - spanOf n else base - spanOf n + 4)

/-- `final` (R282). -/
def blockFinal (u : Bool) (base : Word) (n : Nat) : Word := if u then base + spanOf n else base - spanOf n

/-- The value a block store takes for a register (R285 to R287). -/
def State.blockValue (s : State) (f : Form) (user : Bool) (i : Reg) : Word :=
  if i = 15 then s.pc + f.pipe else if user then s.usrReg i else s.reg i

/-- The register writes of a block load, lowest register first, without r15 (R284, R287). -/
def State.setBlock (s : State) (user : Bool) : List (Reg × Word) → State
  | [] => s
  | (i, v) :: rest =>
    (if i = 15 then s else if user then s.setUsrReg i v else s.setReg i v).setBlock user rest

/-- The lowest register of a list is `i` (R289). -/
def lowestIs (list : BitVec 16) (i : Reg) : Bool := (regsOf list).head? == some i

end Sys2Proof.Machine
end

