-- ==== Sys2Proof/Machine/BlockTransfer.lean ====
section
/-! DEFINITION. Block transfers, with the two operations that the narrow formats 14 and 15 share (46_transfers_block_swap.md section 1). -/

namespace Sys2Proof.Machine

open Sys2Proof

/-- The last word a block load reads, which is what r15 gets (R286). -/
def lastWord (vs : List Word) : Word := vs.getLast?.getD 0

/-- A block load of either form (R281 to R284, R286 to R289). All reads come before all register writes. -/
def blockLoad (f : Form) (p u sb w : Bool) (rn : Reg) (list : BitVec 16) (s : State) : Out :=
  let n := (regsOf list).length
  let start := blockStart p u (s.reg rn) n
  let hasPc := list.getLsbD 15
  let user := sb && !hasPc
  let r := s.readWords start n
  let s1 := if w then r.2.setReg rn (blockFinal u (s.reg rn) n) else r.2
  let s2 := s1.setBlock user ((regsOf list).zip r.1)
  let cost := s.cfg.cost.ldmBase + n
  refuseIf (list == 0) .emptyList <| refuseIf (rn == 15) .baseR15 <| refuseIf (user && w) .userBankWithWriteback <|
    refuseIf (w && list.getLsbD rn.val) .baseInListWithWriteback <| refuseIf (s.misaligned .word start) .misaligned <|
      if hasPc then
        if sb then s.exceptionReturn s2 (lastWord r.1) (cost + s.cfg.cost.loadPc)
        else s2.finishAt (lastWord r.1) (cost + s.cfg.cost.loadPc)
      else s2.finish f cost

/-- A block store of either form (R281 to R283, R285 to R287, R289). Every stored value is the one before the instruction. -/
def blockStore (f : Form) (p u sb w : Bool) (rn : Reg) (list : BitVec 16) (s : State) : Out :=
  let n := (regsOf list).length
  let start := blockStart p u (s.reg rn) n
  let s1 := s.writeWords start ((regsOf list).map (s.blockValue f sb))
  let s2 := if w then s1.setReg rn (blockFinal u (s.reg rn) n) else s1
  refuseIf (list == 0) .emptyList <| refuseIf (rn == 15) .baseR15 <| refuseIf (sb && w) .userBankWithWriteback <|
    refuseIf (w && list.getLsbD rn.val && !lowestIs list rn) .baseInListWithWriteback <|
      refuseIf (s.misaligned .word start) .misaligned <| s2.finish f (s.cfg.cost.stmBase + n)

/-- LDM (R284). -/
def execLdm (c : Cond) (p u sb w : Bool) (rn : Reg) (list : BitVec 16) (s : State) : Out :=
  gate c s <| blockLoad .wide p u sb w rn list s

/-- STM (R285). -/
def execStm (c : Cond) (p u sb w : Bool) (rn : Reg) (list : BitVec 16) (s : State) : Out :=
  gate c s <| blockStore .wide p u sb w rn list s

end Sys2Proof.Machine
end

