-- ==== Sys2Proof/Machine/Branch.lean ====
section
/-! DEFINITION. Branch, branch with link and branch-exchange of the wide form (44_branch.md). -/

namespace Sys2Proof.Machine

open Sys2Proof

/-- The target of the wide branches (R231): `ia + 8` plus the signed word offset. -/
def State.branchTarget (s : State) (offset : BitVec 24) : Word := s.pc + 8 + (sext offset <<< 2)

/-- `T <- v[0]` and then `pc <- v`, masked by the new T, at cost 3: what both branch-exchanges do (R236, R349). -/
def State.exchange (s : State) (v : Word) : Out :=
  (s.setCpsr { s.cpsr with t := v.getLsbD 0 }).finishAt v 3

/-- B (R235). -/
def execB (c : Cond) (offset : BitVec 24) (s : State) : Out :=
  gate c s <| s.finishAt (s.branchTarget offset) 3

/-- BL (R237): the link value is `ia - 4` (R233). -/
def execBl (c : Cond) (offset : BitVec 24) (s : State) : Out :=
  gate c s <| (s.setReg 14 (s.pc - 4)).finishAt (s.branchTarget offset) 3

/-- BX (R236). -/
def execBx (c : Cond) (rm : Reg) (s : State) : Out :=
  gate c s <| s.exchange (s.rdOp .wide rm)

end Sys2Proof.Machine
end

