-- ==== Sys2Proof/Machine/DataProcessing.lean ====
section
/-! DEFINITION. The sixteen data-processing instructions in their three operand forms (42_data_processing.md). -/

namespace Sys2Proof.Machine

open Sys2Proof

/-- What the flag-update bit asks for (R183). -/
def State.setFlagsIf (s : State) (asked : Bool) (f : Flags) : State := if asked then s.setFlags f else s

/-- The frame of every data-processing instruction (R180, R183, R185, R186): `op` its operation, `sb` its flag-update bit, `o` its
second operand. All operands are read before anything is written. -/
def dataProc (op : AluOp) (c : Cond) (sb : Bool) (rn rd : Reg) (o : Operand2) (s : State) : Out :=
  let x := s.shifter o
  let y := aluResult op (s.rdOp .wide rn) x.op2 x.shc s.flags
  let base := s.cfg.cost.dataProc + operandExtraCost o s.cfg.cost
  gate c s <| refuseIf (operandRefused o rn rd) .r15WithRegisterShift <|
    if compares op then (s.setFlags y.2).finish .wide base
    else if rd = 15 then
      if sb then s.exceptionReturn s y.1 (base + 2) else s.finishAt y.1 (base + 2)
    else ((s.setReg rd y.1).setFlagsIf sb y.2).finish .wide base

/-- AND with an immediate operand (R188, R161). -/
def execAndImm (c : Cond) (sb : Bool) (rn rd : Reg) (rotate : BitVec 4) (imm8 : BitVec 8) (s : State) : Out :=
  dataProc .and c sb rn rd (.imm rotate imm8) s

/-- AND with a register shifted by an immediate amount (R188, R162). -/
def execAndRegImm (c : Cond) (sb : Bool) (rn rd : Reg) (amount : BitVec 5) (ty : ShiftType) (rm : Reg) (s : State) : Out :=
  dataProc .and c sb rn rd (.regImm amount ty rm) s

/-- AND with a register shifted by a register-held amount (R188, R167). -/
def execAndRegReg (c : Cond) (sb : Bool) (rn rd rs : Reg) (ty : ShiftType) (rm : Reg) (s : State) : Out :=
  dataProc .and c sb rn rd (.regReg rs ty rm) s

/-- EOR with an immediate operand (R189, R161). -/
def execEorImm (c : Cond) (sb : Bool) (rn rd : Reg) (rotate : BitVec 4) (imm8 : BitVec 8) (s : State) : Out :=
  dataProc .eor c sb rn rd (.imm rotate imm8) s

/-- EOR with a register shifted by an immediate amount (R189, R162). -/
def execEorRegImm (c : Cond) (sb : Bool) (rn rd : Reg) (amount : BitVec 5) (ty : ShiftType) (rm : Reg) (s : State) : Out :=
  dataProc .eor c sb rn rd (.regImm amount ty rm) s

/-- EOR with a register shifted by a register-held amount (R189, R167). -/
def execEorRegReg (c : Cond) (sb : Bool) (rn rd rs : Reg) (ty : ShiftType) (rm : Reg) (s : State) : Out :=
  dataProc .eor c sb rn rd (.regReg rs ty rm) s

/-- SUB with an immediate operand (R190, R161). -/
def execSubImm (c : Cond) (sb : Bool) (rn rd : Reg) (rotate : BitVec 4) (imm8 : BitVec 8) (s : State) : Out :=
  dataProc .sub c sb rn rd (.imm rotate imm8) s

/-- SUB with a register shifted by an immediate amount (R190, R162). -/
def execSubRegImm (c : Cond) (sb : Bool) (rn rd : Reg) (amount : BitVec 5) (ty : ShiftType) (rm : Reg) (s : State) : Out :=
  dataProc .sub c sb rn rd (.regImm amount ty rm) s

/-- SUB with a register shifted by a register-held amount (R190, R167). -/
def execSubRegReg (c : Cond) (sb : Bool) (rn rd rs : Reg) (ty : ShiftType) (rm : Reg) (s : State) : Out :=
  dataProc .sub c sb rn rd (.regReg rs ty rm) s

/-- RSB with an immediate operand (R191, R161). -/
def execRsbImm (c : Cond) (sb : Bool) (rn rd : Reg) (rotate : BitVec 4) (imm8 : BitVec 8) (s : State) : Out :=
  dataProc .rsb c sb rn rd (.imm rotate imm8) s

/-- RSB with a register shifted by an immediate amount (R191, R162). -/
def execRsbRegImm (c : Cond) (sb : Bool) (rn rd : Reg) (amount : BitVec 5) (ty : ShiftType) (rm : Reg) (s : State) : Out :=
  dataProc .rsb c sb rn rd (.regImm amount ty rm) s

/-- RSB with a register shifted by a register-held amount (R191, R167). -/
def execRsbRegReg (c : Cond) (sb : Bool) (rn rd rs : Reg) (ty : ShiftType) (rm : Reg) (s : State) : Out :=
  dataProc .rsb c sb rn rd (.regReg rs ty rm) s

/-- ADD with an immediate operand (R192, R161). -/
def execAddImm (c : Cond) (sb : Bool) (rn rd : Reg) (rotate : BitVec 4) (imm8 : BitVec 8) (s : State) : Out :=
  dataProc .add c sb rn rd (.imm rotate imm8) s

/-- ADD with a register shifted by an immediate amount (R192, R162). -/
def execAddRegImm (c : Cond) (sb : Bool) (rn rd : Reg) (amount : BitVec 5) (ty : ShiftType) (rm : Reg) (s : State) : Out :=
  dataProc .add c sb rn rd (.regImm amount ty rm) s

/-- ADD with a register shifted by a register-held amount (R192, R167). -/
def execAddRegReg (c : Cond) (sb : Bool) (rn rd rs : Reg) (ty : ShiftType) (rm : Reg) (s : State) : Out :=
  dataProc .add c sb rn rd (.regReg rs ty rm) s

/-- ADC with an immediate operand (R193, R161). -/
def execAdcImm (c : Cond) (sb : Bool) (rn rd : Reg) (rotate : BitVec 4) (imm8 : BitVec 8) (s : State) : Out :=
  dataProc .adc c sb rn rd (.imm rotate imm8) s

/-- ADC with a register shifted by an immediate amount (R193, R162). -/
def execAdcRegImm (c : Cond) (sb : Bool) (rn rd : Reg) (amount : BitVec 5) (ty : ShiftType) (rm : Reg) (s : State) : Out :=
  dataProc .adc c sb rn rd (.regImm amount ty rm) s

/-- ADC with a register shifted by a register-held amount (R193, R167). -/
def execAdcRegReg (c : Cond) (sb : Bool) (rn rd rs : Reg) (ty : ShiftType) (rm : Reg) (s : State) : Out :=
  dataProc .adc c sb rn rd (.regReg rs ty rm) s

/-- SBC with an immediate operand (R194, R161). -/
def execSbcImm (c : Cond) (sb : Bool) (rn rd : Reg) (rotate : BitVec 4) (imm8 : BitVec 8) (s : State) : Out :=
  dataProc .sbc c sb rn rd (.imm rotate imm8) s

/-- SBC with a register shifted by an immediate amount (R194, R162). -/
def execSbcRegImm (c : Cond) (sb : Bool) (rn rd : Reg) (amount : BitVec 5) (ty : ShiftType) (rm : Reg) (s : State) : Out :=
  dataProc .sbc c sb rn rd (.regImm amount ty rm) s

/-- SBC with a register shifted by a register-held amount (R194, R167). -/
def execSbcRegReg (c : Cond) (sb : Bool) (rn rd rs : Reg) (ty : ShiftType) (rm : Reg) (s : State) : Out :=
  dataProc .sbc c sb rn rd (.regReg rs ty rm) s

/-- RSC with an immediate operand (R195, R161). -/
def execRscImm (c : Cond) (sb : Bool) (rn rd : Reg) (rotate : BitVec 4) (imm8 : BitVec 8) (s : State) : Out :=
  dataProc .rsc c sb rn rd (.imm rotate imm8) s

/-- RSC with a register shifted by an immediate amount (R195, R162). -/
def execRscRegImm (c : Cond) (sb : Bool) (rn rd : Reg) (amount : BitVec 5) (ty : ShiftType) (rm : Reg) (s : State) : Out :=
  dataProc .rsc c sb rn rd (.regImm amount ty rm) s

/-- RSC with a register shifted by a register-held amount (R195, R167). -/
def execRscRegReg (c : Cond) (sb : Bool) (rn rd rs : Reg) (ty : ShiftType) (rm : Reg) (s : State) : Out :=
  dataProc .rsc c sb rn rd (.regReg rs ty rm) s

/-- TST with an immediate operand (R196, R161). -/
def execTstImm (c : Cond) (sb : Bool) (rn rd : Reg) (rotate : BitVec 4) (imm8 : BitVec 8) (s : State) : Out :=
  dataProc .tst c sb rn rd (.imm rotate imm8) s

/-- TST with a register shifted by an immediate amount (R196, R162). -/
def execTstRegImm (c : Cond) (sb : Bool) (rn rd : Reg) (amount : BitVec 5) (ty : ShiftType) (rm : Reg) (s : State) : Out :=
  dataProc .tst c sb rn rd (.regImm amount ty rm) s

/-- TST with a register shifted by a register-held amount (R196, R167). -/
def execTstRegReg (c : Cond) (sb : Bool) (rn rd rs : Reg) (ty : ShiftType) (rm : Reg) (s : State) : Out :=
  dataProc .tst c sb rn rd (.regReg rs ty rm) s

/-- TEQ with an immediate operand (R197, R161). -/
def execTeqImm (c : Cond) (sb : Bool) (rn rd : Reg) (rotate : BitVec 4) (imm8 : BitVec 8) (s : State) : Out :=
  dataProc .teq c sb rn rd (.imm rotate imm8) s

/-- TEQ with a register shifted by an immediate amount (R197, R162). -/
def execTeqRegImm (c : Cond) (sb : Bool) (rn rd : Reg) (amount : BitVec 5) (ty : ShiftType) (rm : Reg) (s : State) : Out :=
  dataProc .teq c sb rn rd (.regImm amount ty rm) s

/-- TEQ with a register shifted by a register-held amount (R197, R167). -/
def execTeqRegReg (c : Cond) (sb : Bool) (rn rd rs : Reg) (ty : ShiftType) (rm : Reg) (s : State) : Out :=
  dataProc .teq c sb rn rd (.regReg rs ty rm) s

/-- CMP with an immediate operand (R198, R161). -/
def execCmpImm (c : Cond) (sb : Bool) (rn rd : Reg) (rotate : BitVec 4) (imm8 : BitVec 8) (s : State) : Out :=
  dataProc .cmp c sb rn rd (.imm rotate imm8) s

/-- CMP with a register shifted by an immediate amount (R198, R162). -/
def execCmpRegImm (c : Cond) (sb : Bool) (rn rd : Reg) (amount : BitVec 5) (ty : ShiftType) (rm : Reg) (s : State) : Out :=
  dataProc .cmp c sb rn rd (.regImm amount ty rm) s

/-- CMP with a register shifted by a register-held amount (R198, R167). -/
def execCmpRegReg (c : Cond) (sb : Bool) (rn rd rs : Reg) (ty : ShiftType) (rm : Reg) (s : State) : Out :=
  dataProc .cmp c sb rn rd (.regReg rs ty rm) s

/-- CMN with an immediate operand (R199, R161). -/
def execCmnImm (c : Cond) (sb : Bool) (rn rd : Reg) (rotate : BitVec 4) (imm8 : BitVec 8) (s : State) : Out :=
  dataProc .cmn c sb rn rd (.imm rotate imm8) s

/-- CMN with a register shifted by an immediate amount (R199, R162). -/
def execCmnRegImm (c : Cond) (sb : Bool) (rn rd : Reg) (amount : BitVec 5) (ty : ShiftType) (rm : Reg) (s : State) : Out :=
  dataProc .cmn c sb rn rd (.regImm amount ty rm) s

/-- CMN with a register shifted by a register-held amount (R199, R167). -/
def execCmnRegReg (c : Cond) (sb : Bool) (rn rd rs : Reg) (ty : ShiftType) (rm : Reg) (s : State) : Out :=
  dataProc .cmn c sb rn rd (.regReg rs ty rm) s

/-- ORR with an immediate operand (R200, R161). -/
def execOrrImm (c : Cond) (sb : Bool) (rn rd : Reg) (rotate : BitVec 4) (imm8 : BitVec 8) (s : State) : Out :=
  dataProc .orr c sb rn rd (.imm rotate imm8) s

/-- ORR with a register shifted by an immediate amount (R200, R162). -/
def execOrrRegImm (c : Cond) (sb : Bool) (rn rd : Reg) (amount : BitVec 5) (ty : ShiftType) (rm : Reg) (s : State) : Out :=
  dataProc .orr c sb rn rd (.regImm amount ty rm) s

/-- ORR with a register shifted by a register-held amount (R200, R167). -/
def execOrrRegReg (c : Cond) (sb : Bool) (rn rd rs : Reg) (ty : ShiftType) (rm : Reg) (s : State) : Out :=
  dataProc .orr c sb rn rd (.regReg rs ty rm) s

/-- MOV with an immediate operand (R201, R161). -/
def execMovImm (c : Cond) (sb : Bool) (rn rd : Reg) (rotate : BitVec 4) (imm8 : BitVec 8) (s : State) : Out :=
  dataProc .mov c sb rn rd (.imm rotate imm8) s

/-- MOV with a register shifted by an immediate amount (R201, R162). -/
def execMovRegImm (c : Cond) (sb : Bool) (rn rd : Reg) (amount : BitVec 5) (ty : ShiftType) (rm : Reg) (s : State) : Out :=
  dataProc .mov c sb rn rd (.regImm amount ty rm) s

/-- MOV with a register shifted by a register-held amount (R201, R167). -/
def execMovRegReg (c : Cond) (sb : Bool) (rn rd rs : Reg) (ty : ShiftType) (rm : Reg) (s : State) : Out :=
  dataProc .mov c sb rn rd (.regReg rs ty rm) s

/-- BIC with an immediate operand (R202, R161). -/
def execBicImm (c : Cond) (sb : Bool) (rn rd : Reg) (rotate : BitVec 4) (imm8 : BitVec 8) (s : State) : Out :=
  dataProc .bic c sb rn rd (.imm rotate imm8) s

/-- BIC with a register shifted by an immediate amount (R202, R162). -/
def execBicRegImm (c : Cond) (sb : Bool) (rn rd : Reg) (amount : BitVec 5) (ty : ShiftType) (rm : Reg) (s : State) : Out :=
  dataProc .bic c sb rn rd (.regImm amount ty rm) s

/-- BIC with a register shifted by a register-held amount (R202, R167). -/
def execBicRegReg (c : Cond) (sb : Bool) (rn rd rs : Reg) (ty : ShiftType) (rm : Reg) (s : State) : Out :=
  dataProc .bic c sb rn rd (.regReg rs ty rm) s

/-- MVN with an immediate operand (R203, R161). -/
def execMvnImm (c : Cond) (sb : Bool) (rn rd : Reg) (rotate : BitVec 4) (imm8 : BitVec 8) (s : State) : Out :=
  dataProc .mvn c sb rn rd (.imm rotate imm8) s

/-- MVN with a register shifted by an immediate amount (R203, R162). -/
def execMvnRegImm (c : Cond) (sb : Bool) (rn rd : Reg) (amount : BitVec 5) (ty : ShiftType) (rm : Reg) (s : State) : Out :=
  dataProc .mvn c sb rn rd (.regImm amount ty rm) s

/-- MVN with a register shifted by a register-held amount (R203, R167). -/
def execMvnRegReg (c : Cond) (sb : Bool) (rn rd rs : Reg) (ty : ShiftType) (rm : Reg) (s : State) : Out :=
  dataProc .mvn c sb rn rd (.regReg rs ty rm) s

end Sys2Proof.Machine
end

