-- ==== Sys2Proof/Machine/SingleTransfer.lean ====
section
/-! DEFINITION. Word and byte transfers of the wide form, and the load and the store that every single transfer of both forms goes through
(45_transfers_single.md). -/

namespace Sys2Proof.Machine

open Sys2Proof

/-- The load of one register (R254, R257, R258, R262): the access, the write-back, then the destination. `cost` is that of the
instruction; a load into r15 adds `loadPc` and leaves T. -/
def loadInto (f : Form) (k : LoadKind) (cost : Nat) (wb : Option (Reg × Word)) (rd : Reg) (a : Word) (s : State) : Out :=
  refuseIf (s.misaligned k.width a) .misaligned <|
    if rd = 15 then ((s.load k a).2.writeBack wb).finishAt (s.load k a).1 (cost + s.cfg.cost.loadPc)
    else (((s.load k a).2.writeBack wb).setReg rd (s.load k a).1).finish f cost

/-- The store of one register (R254, R256, R257, R258): the value is read before the write-back, r15 as `ia + PIPE`. -/
def storeFrom (f : Form) (w : Width) (cost : Nat) (wb : Option (Reg × Word)) (rd : Reg) (a : Word) (s : State) : Out :=
  refuseIf (s.misaligned w a) .misaligned <|
    ((s.memWrite w a (s.rdOp f rd)).writeBack wb).finish f cost

/-- A wide load with its addressing mode (R251, R253, R255). -/
def wideLoad (k : LoadKind) (cost : Nat) (c : Cond) (p u w : Bool) (rn rd : Reg) (off : Word) (s : State) : Out :=
  gate c s <| refuseIf (rn == 15 && writesBack p w) .baseR15WithWriteback <|
    loadInto .wide k cost (writeBackOf p u w rn (s.rdOp .wide rn) off) rd (accessAddr p u (s.rdOp .wide rn) off) s

/-- A wide store with its addressing mode (R251, R253, R255). -/
def wideStore (wd : Width) (cost : Nat) (c : Cond) (p u w : Bool) (rn rd : Reg) (off : Word) (s : State) : Out :=
  gate c s <| refuseIf (rn == 15 && writesBack p w) .baseR15WithWriteback <|
    storeFrom .wide wd cost (writeBackOf p u w rn (s.rdOp .wide rn) off) rd (accessAddr p u (s.rdOp .wide rn) off) s

/-- LDR with an immediate offset (R259, R252). -/
def execLdrImm (c : Cond) (p u w : Bool) (rn rd : Reg) (offset : BitVec 12) (s : State) : Out :=
  wideLoad .word s.cfg.cost.ldr c p u w rn rd (zext offset) s

/-- LDR with a shifted register offset (R259, R252). -/
def execLdrReg (c : Cond) (p u w : Bool) (rn rd : Reg) (amount : BitVec 5) (ty : ShiftType) (rm : Reg) (s : State) : Out :=
  wideLoad .word s.cfg.cost.ldr c p u w rn rd (s.shiftedOffset amount ty rm) s

/-- LDRB with an immediate offset (R260, R252). -/
def execLdrbImm (c : Cond) (p u w : Bool) (rn rd : Reg) (offset : BitVec 12) (s : State) : Out :=
  wideLoad .byte s.cfg.cost.ldrb c p u w rn rd (zext offset) s

/-- LDRB with a shifted register offset (R260, R252). -/
def execLdrbReg (c : Cond) (p u w : Bool) (rn rd : Reg) (amount : BitVec 5) (ty : ShiftType) (rm : Reg) (s : State) : Out :=
  wideLoad .byte s.cfg.cost.ldrb c p u w rn rd (s.shiftedOffset amount ty rm) s

/-- STR with an immediate offset (R261, R252). -/
def execStrImm (c : Cond) (p u w : Bool) (rn rd : Reg) (offset : BitVec 12) (s : State) : Out :=
  wideStore .word s.cfg.cost.str c p u w rn rd (zext offset) s

/-- STR with a shifted register offset (R261, R252). -/
def execStrReg (c : Cond) (p u w : Bool) (rn rd : Reg) (amount : BitVec 5) (ty : ShiftType) (rm : Reg) (s : State) : Out :=
  wideStore .word s.cfg.cost.str c p u w rn rd (s.shiftedOffset amount ty rm) s

/-- STRB with an immediate offset (R261, R252). -/
def execStrbImm (c : Cond) (p u w : Bool) (rn rd : Reg) (offset : BitVec 12) (s : State) : Out :=
  wideStore .byte s.cfg.cost.strb c p u w rn rd (zext offset) s

/-- STRB with a shifted register offset (R261, R252). -/
def execStrbReg (c : Cond) (p u w : Bool) (rn rd : Reg) (amount : BitVec 5) (ty : ShiftType) (rm : Reg) (s : State) : Out :=
  wideStore .byte s.cfg.cost.strb c p u w rn rd (s.shiftedOffset amount ty rm) s

end Sys2Proof.Machine
end

