-- ==== Sys2Proof/Machine/HalfwordTransfer.lean ====
section
/-! DEFINITION. Halfword and signed transfers of the wide form (45_transfers_single.md section 3). -/

namespace Sys2Proof.Machine

open Sys2Proof

/-- LDRH with an immediate offset (R264, R263). -/
def execLdrhImm (c : Cond) (p u w : Bool) (rn rd : Reg) (offset : BitVec 8) (s : State) : Out :=
  wideLoad .half s.cfg.cost.ldrh c p u w rn rd (zext offset) s

/-- LDRH with a register offset (R264, R263). -/
def execLdrhReg (c : Cond) (p u w : Bool) (rn rd rm : Reg) (s : State) : Out :=
  wideLoad .half s.cfg.cost.ldrh c p u w rn rd (s.rdOp .wide rm) s

/-- LDRSB with an immediate offset (R265, R263). -/
def execLdrsbImm (c : Cond) (p u w : Bool) (rn rd : Reg) (offset : BitVec 8) (s : State) : Out :=
  wideLoad .signedByte s.cfg.cost.ldrsb c p u w rn rd (zext offset) s

/-- LDRSB with a register offset (R265, R263). -/
def execLdrsbReg (c : Cond) (p u w : Bool) (rn rd rm : Reg) (s : State) : Out :=
  wideLoad .signedByte s.cfg.cost.ldrsb c p u w rn rd (s.rdOp .wide rm) s

/-- LDRSH with an immediate offset (R266, R263). -/
def execLdrshImm (c : Cond) (p u w : Bool) (rn rd : Reg) (offset : BitVec 8) (s : State) : Out :=
  wideLoad .signedHalf s.cfg.cost.ldrsh c p u w rn rd (zext offset) s

/-- LDRSH with a register offset (R266, R263). -/
def execLdrshReg (c : Cond) (p u w : Bool) (rn rd rm : Reg) (s : State) : Out :=
  wideLoad .signedHalf s.cfg.cost.ldrsh c p u w rn rd (s.rdOp .wide rm) s

/-- STRH with an immediate offset (R267, R263). -/
def execStrhImm (c : Cond) (p u w : Bool) (rn rd : Reg) (offset : BitVec 8) (s : State) : Out :=
  wideStore .half s.cfg.cost.strh c p u w rn rd (zext offset) s

/-- STRH with a register offset (R267, R263). -/
def execStrhReg (c : Cond) (p u w : Bool) (rn rd rm : Reg) (s : State) : Out :=
  wideStore .half s.cfg.cost.strh c p u w rn rd (s.rdOp .wide rm) s

end Sys2Proof.Machine
end

