-- ==== Sys2Proof/Machine/Multiply.lean ====
section
/-! DEFINITION. The multiplies and long multiplies of the wide form (43_multiply.md). -/

namespace Sys2Proof.Machine

open Sys2Proof

/-- A 32-bit multiply (R212 to R217): `r` its result, read before anything is written. -/
def multiply (refused : Bool) (c : Cond) (sb : Bool) (rd : Reg) (r : Word) (cost : Nat) (s : State) : Out :=
  gate c s <| refuseIf refused .r15InMultiply <|
    ((s.setReg rd r).setMulFlags sb r.msb (r == 0)).finish .wide cost

/-- MUL (R216); the `rn` field is ignored (R214). -/
def execMul (c : Cond) (sb : Bool) (rd _rn rs rm : Reg) (s : State) : Out :=
  multiply (rd == 15 || rm == 15 || rs == 15) c sb rd (s.reg rm * s.reg rs) 3 s

/-- MLA (R217). -/
def execMla (c : Cond) (sb : Bool) (rd rn rs rm : Reg) (s : State) : Out :=
  multiply (rd == 15 || rm == 15 || rs == 15 || rn == 15) c sb rd (s.reg rm * s.reg rs + s.reg rn) 4 s

/-- The exact unsigned product, 64 bits (R218). -/
def unsignedProduct (x y : Word) : BitVec 64 := BitVec.ofNat 64 (x.toNat * y.toNat)

/-- The exact signed product as a 64-bit two's-complement value (R220). -/
def signedProduct (x y : Word) : BitVec 64 := BitVec.ofInt 64 (x.toInt * y.toInt)

/-- `x[RdHi] : x[RdLo]` (R219). -/
def State.accumulator (s : State) (rdHi rdLo : Reg) : BitVec 64 := s.reg rdHi ++ s.reg rdLo

/-- A long multiply (R212 to R215, R218 to R221): `r` its 64-bit result, read before anything is written. -/
def multiplyLong (c : Cond) (sb : Bool) (rdHi rdLo rs rm : Reg) (r : BitVec 64) (cost : Nat) (s : State) : Out :=
  gate c s <| refuseIf (rdHi == 15 || rdLo == 15 || rm == 15 || rs == 15) .r15InMultiply <|
    refuseIf (rdHi == rdLo) .rdHiEqRdLo <|
      (((s.setReg rdLo (r.extractLsb' 0 32)).setReg rdHi (r.extractLsb' 32 32)).setMulFlags sb r.msb (r == 0)).finish
        .wide cost

/-- UMULL (R218). -/
def execUmull (c : Cond) (sb : Bool) (rdHi rdLo rs rm : Reg) (s : State) : Out :=
  multiplyLong c sb rdHi rdLo rs rm (unsignedProduct (s.reg rm) (s.reg rs)) s.cfg.cost.umull s

/-- UMLAL (R219); the accumulation wraps modulo 2^64. -/
def execUmlal (c : Cond) (sb : Bool) (rdHi rdLo rs rm : Reg) (s : State) : Out :=
  multiplyLong c sb rdHi rdLo rs rm (unsignedProduct (s.reg rm) (s.reg rs) + s.accumulator rdHi rdLo) s.cfg.cost.umlal s

/-- SMULL (R220). -/
def execSmull (c : Cond) (sb : Bool) (rdHi rdLo rs rm : Reg) (s : State) : Out :=
  multiplyLong c sb rdHi rdLo rs rm (signedProduct (s.reg rm) (s.reg rs)) s.cfg.cost.smull s

/-- SMLAL (R221); the accumulation wraps modulo 2^64. -/
def execSmlal (c : Cond) (sb : Bool) (rdHi rdLo rs rm : Reg) (s : State) : Out :=
  multiplyLong c sb rdHi rdLo rs rm (signedProduct (s.reg rm) (s.reg rs) + s.accumulator rdHi rdLo) s.cfg.cost.smlal s

end Sys2Proof.Machine
end

