-- ==== Sys2Proof/Machine/Narrow1to9.lean ====
section
/-! DEFINITION. The narrow formats 1 to 9 (48_narrow_formats_1_to_9.md). None has a condition field (R152); the program counter advances by 2. -/

namespace Sys2Proof.Machine

open Sys2Proof

/-- A narrow instruction that computes and writes flags (R311, R324): `a` and `b` its operands and `shc` its carry-out, read before
anything is written. The compare operations write no register. -/
def narrowAlu (op : AluOp) (a b : Word) (shc : Bool) (rd : LowReg) (cost : Nat) (s : State) : Out :=
  let y := aluResult op a b shc s.flags
  if compares op then (s.setFlags y.2).finish .narrow cost
  else ((s.setReg rd.toReg y.1).setFlags y.2).finish .narrow cost

/-! ### Formats 1 to 3 -/

/-- LSL by an immediate amount, format 1 (R313). -/
def execTLslImm (offset5 : BitVec 5) (rs rd : LowReg) (s : State) : Out :=
  let x := shiftImm .lsl offset5 (s.reg rs.toReg) s.cpsr.c
  narrowAlu .mov 0 x.op2 x.shc rd s.cfg.cost.dataProc s

/-- LSR by an immediate amount, format 1 (R314). -/
def execTLsrImm (offset5 : BitVec 5) (rs rd : LowReg) (s : State) : Out :=
  let x := shiftImm .lsr offset5 (s.reg rs.toReg) s.cpsr.c
  narrowAlu .mov 0 x.op2 x.shc rd s.cfg.cost.dataProc s

/-- ASR by an immediate amount, format 1 (R315). -/
def execTAsrImm (offset5 : BitVec 5) (rs rd : LowReg) (s : State) : Out :=
  let x := shiftImm .asr offset5 (s.reg rs.toReg) s.cpsr.c
  narrowAlu .mov 0 x.op2 x.shc rd s.cfg.cost.dataProc s

/-- ADD of registers, format 2 (R316). -/
def execTAddReg (rn rs rd : LowReg) (s : State) : Out :=
  narrowAlu .add (s.reg rs.toReg) (s.reg rn.toReg) s.cpsr.c rd s.cfg.cost.dataProc s

/-- SUB of registers, format 2 (R318). -/
def execTSubReg (rn rs rd : LowReg) (s : State) : Out :=
  narrowAlu .sub (s.reg rs.toReg) (s.reg rn.toReg) s.cpsr.c rd s.cfg.cost.dataProc s

/-- ADD of a 3-bit immediate, format 2 (R317). -/
def execTAddImm3 (imm3 : BitVec 3) (rs rd : LowReg) (s : State) : Out :=
  narrowAlu .add (s.reg rs.toReg) (zext imm3) s.cpsr.c rd s.cfg.cost.dataProc s

/-- SUB of a 3-bit immediate, format 2 (R319). -/
def execTSubImm3 (imm3 : BitVec 3) (rs rd : LowReg) (s : State) : Out :=
  narrowAlu .sub (s.reg rs.toReg) (zext imm3) s.cpsr.c rd s.cfg.cost.dataProc s

/-- MOV of an 8-bit immediate, format 3 (R320). -/
def execTMovImm (rd : LowReg) (imm8 : BitVec 8) (s : State) : Out :=
  narrowAlu .mov (s.reg rd.toReg) (zext imm8) s.cpsr.c rd s.cfg.cost.dataProc s

/-- CMP of an 8-bit immediate, format 3 (R321). -/
def execTCmpImm (rd : LowReg) (imm8 : BitVec 8) (s : State) : Out :=
  narrowAlu .cmp (s.reg rd.toReg) (zext imm8) s.cpsr.c rd s.cfg.cost.dataProc s

/-- ADD of an 8-bit immediate, format 3 (R322). -/
def execTAddImm8 (rd : LowReg) (imm8 : BitVec 8) (s : State) : Out :=
  narrowAlu .add (s.reg rd.toReg) (zext imm8) s.cpsr.c rd s.cfg.cost.dataProc s

/-- SUB of an 8-bit immediate, format 3 (R323). -/
def execTSubImm8 (rd : LowReg) (imm8 : BitVec 8) (s : State) : Out :=
  narrowAlu .sub (s.reg rd.toReg) (zext imm8) s.cpsr.c rd s.cfg.cost.dataProc s

/-! ### Format 4: `a` is the old `rd`, `b` is `rs` (R324) -/

/-- AND, format 4 (R325). -/
def execTAnd (rs rd : LowReg) (s : State) : Out :=
  narrowAlu .and (s.reg rd.toReg) (s.reg rs.toReg) s.cpsr.c rd s.cfg.cost.dataProc s

/-- EOR, format 4 (R326). -/
def execTEor (rs rd : LowReg) (s : State) : Out :=
  narrowAlu .eor (s.reg rd.toReg) (s.reg rs.toReg) s.cpsr.c rd s.cfg.cost.dataProc s

/-- ADC, format 4 (R330). -/
def execTAdc (rs rd : LowReg) (s : State) : Out :=
  narrowAlu .adc (s.reg rd.toReg) (s.reg rs.toReg) s.cpsr.c rd s.cfg.cost.dataProc s

/-- SBC, format 4 (R331). -/
def execTSbc (rs rd : LowReg) (s : State) : Out :=
  narrowAlu .sbc (s.reg rd.toReg) (s.reg rs.toReg) s.cpsr.c rd s.cfg.cost.dataProc s

/-- TST, format 4 (R333). -/
def execTTst (rs rd : LowReg) (s : State) : Out :=
  narrowAlu .tst (s.reg rd.toReg) (s.reg rs.toReg) s.cpsr.c rd s.cfg.cost.dataProc s

/-- CMP, format 4 (R335). -/
def execTCmp (rs rd : LowReg) (s : State) : Out :=
  narrowAlu .cmp (s.reg rd.toReg) (s.reg rs.toReg) s.cpsr.c rd s.cfg.cost.dataProc s

/-- CMN, format 4 (R336). -/
def execTCmn (rs rd : LowReg) (s : State) : Out :=
  narrowAlu .cmn (s.reg rd.toReg) (s.reg rs.toReg) s.cpsr.c rd s.cfg.cost.dataProc s

/-- ORR, format 4 (R337). -/
def execTOrr (rs rd : LowReg) (s : State) : Out :=
  narrowAlu .orr (s.reg rd.toReg) (s.reg rs.toReg) s.cpsr.c rd s.cfg.cost.dataProc s

/-- BIC, format 4 (R339). -/
def execTBic (rs rd : LowReg) (s : State) : Out :=
  narrowAlu .bic (s.reg rd.toReg) (s.reg rs.toReg) s.cpsr.c rd s.cfg.cost.dataProc s

/-- MVN, format 4 (R340). -/
def execTMvn (rs rd : LowReg) (s : State) : Out :=
  narrowAlu .mvn (s.reg rd.toReg) (s.reg rs.toReg) s.cpsr.c rd s.cfg.cost.dataProc s

/-- NEG, format 4 (R334): `0 - b`. -/
def execTNeg (rs rd : LowReg) (s : State) : Out :=
  narrowAlu .sub 0 (s.reg rs.toReg) s.cpsr.c rd s.cfg.cost.dataProc s

/-- LSL by a register, format 4 (R327). -/
def execTLsl (rs rd : LowReg) (s : State) : Out :=
  let x := shiftReg .lsl ((s.reg rs.toReg).setWidth 8) (s.reg rd.toReg) s.cpsr.c
  narrowAlu .mov 0 x.op2 x.shc rd (s.cfg.cost.dataProc + s.cfg.cost.regShift) s

/-- LSR by a register, format 4 (R328). -/
def execTLsr (rs rd : LowReg) (s : State) : Out :=
  let x := shiftReg .lsr ((s.reg rs.toReg).setWidth 8) (s.reg rd.toReg) s.cpsr.c
  narrowAlu .mov 0 x.op2 x.shc rd (s.cfg.cost.dataProc + s.cfg.cost.regShift) s

/-- ASR by a register, format 4 (R329). -/
def execTAsr (rs rd : LowReg) (s : State) : Out :=
  let x := shiftReg .asr ((s.reg rs.toReg).setWidth 8) (s.reg rd.toReg) s.cpsr.c
  narrowAlu .mov 0 x.op2 x.shc rd (s.cfg.cost.dataProc + s.cfg.cost.regShift) s

/-- ROR by a register, format 4 (R332). -/
def execTRor (rs rd : LowReg) (s : State) : Out :=
  let x := shiftReg .ror ((s.reg rs.toReg).setWidth 8) (s.reg rd.toReg) s.cpsr.c
  narrowAlu .mov 0 x.op2 x.shc rd (s.cfg.cost.dataProc + s.cfg.cost.regShift) s

/-- MUL, format 4 (R338). -/
def execTMul (rs rd : LowReg) (s : State) : Out :=
  let r := s.reg rd.toReg * s.reg rs.toReg
  ((s.setReg rd.toReg r).setMulFlags true r.msb (r == 0)).finish .narrow 3

/-! ### Format 5: register numbers of four bits (R345) -/

/-- The end of ADD and MOV of format 5 (R346, R348): no flags, and r15 as a destination is a branch that leaves T. -/
def highWrite (rd : Reg) (r : Word) (s : State) : Out :=
  if rd = 15 then s.finishAt r (s.cfg.cost.dataProc + 2) else (s.setReg rd r).finish .narrow s.cfg.cost.dataProc

/-- ADD of format 5 (R346). -/
def highAdd (rs rd : Reg) (s : State) : Out := highWrite rd (s.rdOp .narrow rd + s.rdOp .narrow rs) s

/-- CMP of format 5 (R347). -/
def highCmp (rs rd : Reg) (s : State) : Out :=
  (s.setFlags (aluResult .cmp (s.rdOp .narrow rd) (s.rdOp .narrow rs) s.cpsr.c s.flags).2).finish .narrow
    s.cfg.cost.dataProc

/-- MOV of format 5 (R348). -/
def highMov (rs rd : Reg) (s : State) : Out := highWrite rd (s.rdOp .narrow rs) s

/-- ADD with a high destination, `H1 = 1` (R346). -/
def execTAddHiH1 (rs : Reg) (rd : LowReg) (s : State) : Out := highAdd rs rd.toHigh s

/-- ADD with a low destination and a high source, `H1 = 0` and `H2 = 1` (R346). -/
def execTAddHiH2 (rs : LowReg) (rd : LowReg) (s : State) : Out := highAdd rs.toHigh rd.toReg s

/-- CMP with a high destination, `H1 = 1` (R347). -/
def execTCmpHiH1 (rs : Reg) (rd : LowReg) (s : State) : Out := highCmp rs rd.toHigh s

/-- CMP with a low destination and a high source, `H1 = 0` and `H2 = 1` (R347). -/
def execTCmpHiH2 (rs : LowReg) (rd : LowReg) (s : State) : Out := highCmp rs.toHigh rd.toReg s

/-- MOV with a high destination, `H1 = 1` (R348). -/
def execTMovHiH1 (rs : Reg) (rd : LowReg) (s : State) : Out := highMov rs rd.toHigh s

/-- MOV with a low destination and a high source, `H1 = 0` and `H2 = 1` (R348). -/
def execTMovHiH2 (rs : LowReg) (rd : LowReg) (s : State) : Out := highMov rs.toHigh rd.toReg s

/-- BX, format 5 (R349). -/
def execTBx (rs : Reg) (s : State) : Out := s.exchange (s.rdOp .narrow rs)

/-! ### Formats 6 to 9: loads and stores without write-back -/

/-- A narrow load. -/
def narrowLoad (k : LoadKind) (cost : Nat) (rd : LowReg) (a : Word) (s : State) : Out :=
  loadInto .narrow k cost none rd.toReg a s

/-- A narrow store. -/
def narrowStore (w : Width) (cost : Nat) (rd : LowReg) (a : Word) (s : State) : Out :=
  storeFrom .narrow w cost none rd.toReg a s

/-- The register-offset address of formats 7 and 8 (R351). -/
def State.indexed (s : State) (rb ro : LowReg) : Word := s.reg rb.toReg + s.reg ro.toReg

/-- LDR relative to the program counter, format 6 (R350). -/
def execTLdrPc (rd : LowReg) (word8 : BitVec 8) (s : State) : Out :=
  narrowLoad .word s.cfg.cost.ldr rd (s.pcBase + (zext word8 <<< 2)) s

/-- STR with a register offset, format 7 (R352). -/
def execTStrReg (ro rb rd : LowReg) (s : State) : Out := narrowStore .word s.cfg.cost.str rd (s.indexed rb ro) s

/-- STRB with a register offset, format 7 (R353). -/
def execTStrbReg (ro rb rd : LowReg) (s : State) : Out := narrowStore .byte s.cfg.cost.strb rd (s.indexed rb ro) s

/-- LDR with a register offset, format 7 (R354). -/
def execTLdrReg (ro rb rd : LowReg) (s : State) : Out := narrowLoad .word s.cfg.cost.ldr rd (s.indexed rb ro) s

/-- LDRB with a register offset, format 7 (R355). -/
def execTLdrbReg (ro rb rd : LowReg) (s : State) : Out := narrowLoad .byte s.cfg.cost.ldrb rd (s.indexed rb ro) s

/-- STRH with a register offset, format 8 (R356). -/
def execTStrhReg (ro rb rd : LowReg) (s : State) : Out := narrowStore .half s.cfg.cost.strh rd (s.indexed rb ro) s

/-- LDSB with a register offset, format 8 (R357). -/
def execTLdsbReg (ro rb rd : LowReg) (s : State) : Out := narrowLoad .signedByte s.cfg.cost.ldrsb rd (s.indexed rb ro) s

/-- LDRH with a register offset, format 8 (R358). -/
def execTLdrhReg (ro rb rd : LowReg) (s : State) : Out := narrowLoad .half s.cfg.cost.ldrh rd (s.indexed rb ro) s

/-- LDSH with a register offset, format 8 (R359). -/
def execTLdshReg (ro rb rd : LowReg) (s : State) : Out := narrowLoad .signedHalf s.cfg.cost.ldrsh rd (s.indexed rb ro) s

/-- STR with an immediate offset, format 9 (R360). -/
def execTStrImm (offset5 : BitVec 5) (rb rd : LowReg) (s : State) : Out :=
  narrowStore .word s.cfg.cost.str rd (s.reg rb.toReg + (zext offset5 <<< 2)) s

/-- LDR with an immediate offset, format 9 (R361). -/
def execTLdrImm (offset5 : BitVec 5) (rb rd : LowReg) (s : State) : Out :=
  narrowLoad .word s.cfg.cost.ldr rd (s.reg rb.toReg + (zext offset5 <<< 2)) s

/-- STRB with an immediate offset, format 9 (R362). -/
def execTStrbImm (offset5 : BitVec 5) (rb rd : LowReg) (s : State) : Out :=
  narrowStore .byte s.cfg.cost.strb rd (s.reg rb.toReg + zext offset5) s

/-- LDRB with an immediate offset, format 9 (R363). -/
def execTLdrbImm (offset5 : BitVec 5) (rb rd : LowReg) (s : State) : Out :=
  narrowLoad .byte s.cfg.cost.ldrb rd (s.reg rb.toReg + zext offset5) s

end Sys2Proof.Machine
end

