-- ==== Sys2Proof/Machine/SoftwareInterrupt.lean ====
section
/-! DEFINITION. The software interrupt of the wide form and the words that are no instruction (47_swi_and_unrecognized.md). -/

namespace Sys2Proof.Machine

open Sys2Proof

/-- The exception mode of the parameter `SWI_MODE` (R301). -/
def swiTarget : SwiMode → ExcMode
  | .svc => .svc
  | .irq => .irq

/-- The software interrupt of either form (R300, R393): the shared entry with the fixed vector, the link value `ia - 4` and the
cost 3. The comment field is ignored (R302). -/
def State.softwareInterrupt (s : State) : Out :=
  .next ((s.enter (swiTarget s.cfg.swiMode) s.cfg.vecSwi (s.pc - 4)).addCycles 3)

/-- SWI (R300). -/
def execSwi (c : Cond) (_comment : BitVec 24) (s : State) : Out := gate c s <| s.softwareInterrupt

/-- A word of the halfword and multiply space that is no instruction (R111, R116, R304). -/
def execNrHalfwordSpace (word : Word) (s : State) : Out := .fault (.decodeError s.pc word)

/-- A word of the transfer space with bits 25 and 4 set (R116, R304). -/
def execNrUndefinedSpace (word : Word) (s : State) : Out := .fault (.decodeError s.pc word)

/-- A word of the coprocessor space (R116, R304). -/
def execNrCoprocessorSpace (word : Word) (s : State) : Out := .fault (.decodeError s.pc word)

/-- A halfword of format 5 that is no instruction (R123, R304). -/
def execNrHighRegisterSpace (half : Half) (s : State) : Out := .fault (.decodeError s.pc (zext half))

/-- Format 16 with condition 14 (R129, R304). -/
def execNrCond14 (half : Half) (s : State) : Out := .fault (.decodeError s.pc (zext half))

/-- Every other halfword (R131, R304). -/
def execNrNarrow (half : Half) (s : State) : Out := .fault (.decodeError s.pc (zext half))

end Sys2Proof.Machine
end

