-- ==== Sys2Proof/Machine/Narrow10to19.lean ====
section
/-! DEFINITION. The narrow formats 10 to 19 (49_narrow_formats_10_to_19.md). None writes N, Z, C or V. -/

namespace Sys2Proof.Machine

open Sys2Proof

/-! ### Formats 10 and 11 -/

/-- STRH with an immediate offset, format 10 (R371). -/
def execTStrhImm (offset5 : BitVec 5) (rb rd : LowReg) (s : State) : Out :=
  narrowStore .half s.cfg.cost.strh rd (s.reg rb.toReg + (zext offset5 <<< 1)) s

/-- LDRH with an immediate offset, format 10 (R372). -/
def execTLdrhImm (offset5 : BitVec 5) (rb rd : LowReg) (s : State) : Out :=
  narrowLoad .half s.cfg.cost.ldrh rd (s.reg rb.toReg + (zext offset5 <<< 1)) s

/-- STR relative to sp, format 11 (R373). -/
def execTStrSp (rd : LowReg) (word8 : BitVec 8) (s : State) : Out :=
  narrowStore .word s.cfg.cost.str rd (s.reg 13 + (zext word8 <<< 2)) s

/-- LDR relative to sp, format 11 (R374). -/
def execTLdrSp (rd : LowReg) (word8 : BitVec 8) (s : State) : Out :=
  narrowLoad .word s.cfg.cost.ldr rd (s.reg 13 + (zext word8 <<< 2)) s

/-! ### Formats 12 and 13: addresses; no flags -/

/-- ADD from pc, format 12 (R378). -/
def execTAddPc (rd : LowReg) (word8 : BitVec 8) (s : State) : Out :=
  (s.setReg rd.toReg (s.pcBase + (zext word8 <<< 2))).finish .narrow s.cfg.cost.dataProc

/-- ADD from sp, format 12 (R377). -/
def execTAddSp (rd : LowReg) (word8 : BitVec 8) (s : State) : Out :=
  (s.setReg rd.toReg (s.reg 13 + (zext word8 <<< 2))).finish .narrow s.cfg.cost.dataProc

/-- ADD to sp, format 13 (R379). -/
def execTAddSpImm (sword7 : BitVec 7) (s : State) : Out :=
  (s.setReg 13 (s.reg 13 + (zext sword7 <<< 2))).finish .narrow s.cfg.cost.dataProc

/-- SUB from sp, format 13 (R380). -/
def execTSubSpImm (sword7 : BitVec 7) (s : State) : Out :=
  (s.setReg 13 (s.reg 13 - (zext sword7 <<< 2))).finish .narrow s.cfg.cost.dataProc

/-! ### Formats 14 and 15: block transfers (R381) -/

/-- The list of low registers as a list of sixteen, with r14 or r15 beside it. -/
def lowList (list : BitVec 8) (lr pc : Bool) : BitVec 16 := putField 16 0 list ||| putBit 16 14 lr ||| putBit 16 15 pc

/-- PUSH, which is `STMDB sp!` (R382). -/
def execTPush (lr : Bool) (list : BitVec 8) (s : State) : Out :=
  blockStore .narrow true false false true 13 (lowList list lr false) s

/-- POP, which is `LDMIA sp!` (R383). -/
def execTPop (list : BitVec 8) (s : State) : Out :=
  blockLoad .narrow false true false true 13 (lowList list false false) s

/-- POP with r15 in the list (R384); T is unchanged. -/
def execTPopPc (list : BitVec 8) (s : State) : Out :=
  blockLoad .narrow false true false true 13 (lowList list false true) s

/-- STMIA, format 15 (R385). -/
def execTStmia (rb : LowReg) (list : BitVec 8) (s : State) : Out :=
  blockStore .narrow false true false true rb.toReg (lowList list false false) s

/-- LDMIA, format 15 (R386): written back exactly when the base is not in the list. -/
def execTLdmia (rb : LowReg) (list : BitVec 8) (s : State) : Out :=
  blockLoad .narrow false true false (!list.getLsbD rb.val) rb.toReg (lowList list false false) s

/-! ### Formats 16 to 19 -/

/-- SWI, format 17 (R393). -/
def execTSwi (_value8 : BitVec 8) (s : State) : Out := s.softwareInterrupt

/-- The conditional branch, format 16 (R389). -/
def execTBCond (c : Cond) (soffset8 : BitVec 8) (s : State) : Out :=
  if s.passes c then s.finishAt (s.pc + 4 + (sext soffset8 <<< 1)) 3 else s.finish .narrow 1

/-- B, format 18 (R395). -/
def execTB (offset11 : BitVec 11) (s : State) : Out := s.finishAt (s.pc + 4 + (sext offset11 <<< 1)) 3

/-- BL, first half, format 19 (R398). -/
def execTBlFirst (offset11 : BitVec 11) (s : State) : Out :=
  (s.setReg 14 (s.pc + 4 + (sext offset11 <<< 12))).finish .narrow s.cfg.cost.blFirst

/-- BL, second half, format 19 (R399): the target is taken from lr before lr gets the link value `ia - 4`. -/
def execTBlSecond (offset11 : BitVec 11) (s : State) : Out :=
  (s.setReg 14 (s.pc - 4)).finishAt (s.reg 14 + (zext offset11 <<< 1)) 3

end Sys2Proof.Machine
end

