-- ==== Sys2Proof/Machine/Swap.lean ====
section
/-! DEFINITION. The swap of a register with memory (46_transfers_block_swap.md section 2). -/

namespace Sys2Proof.Machine

open Sys2Proof

/-- The swap (R291 to R294): the read, then the write of the same address, then the destination; all registers are read first. -/
def swap (k : LoadKind) (c : Cond) (rn rd rm : Reg) (s : State) : Out :=
  gate c s <| refuseIf (rn == 15 || rd == 15 || rm == 15) .r15InSwap <|
    refuseIf (s.misaligned k.width (s.reg rn)) .misaligned <|
      (((s.load k (s.reg rn)).2.memWrite k.width (s.reg rn) (s.reg rm)).setReg rd (s.load k (s.reg rn)).1).finish .wide
        s.cfg.cost.swap

/-- SWP (R292). -/
def execSwp (c : Cond) (rn rd rm : Reg) (s : State) : Out := swap .word c rn rd rm s

/-- SWPB (R293). -/
def execSwpb (c : Cond) (rn rd rm : Reg) (s : State) : Out := swap .byte c rn rd rm s

end Sys2Proof.Machine
end

