-- ==== Sys2Proof/Machine/Dispatch.lean ====
section
/-! DEFINITION. The dispatch: one arm for each constructor of `Instr`, one direct call of its meaning. -/

namespace Sys2Proof.Machine

open Sys2Proof

def exec (i : Instr) (s : State) : Host.Outcome State Fault Refusal :=
  match i with
  | .swi c comment => Sys2Proof.Machine.execSwi c comment s
  | .bx c rm => Sys2Proof.Machine.execBx c rm s
  | .b c offset => Sys2Proof.Machine.execB c offset s
  | .bl c offset => Sys2Proof.Machine.execBl c offset s
  | .mul c sb rd rn rs rm => Sys2Proof.Machine.execMul c sb rd rn rs rm s
  | .mla c sb rd rn rs rm => Sys2Proof.Machine.execMla c sb rd rn rs rm s
  | .umull c sb rdHi rdLo rs rm => Sys2Proof.Machine.execUmull c sb rdHi rdLo rs rm s
  | .umlal c sb rdHi rdLo rs rm => Sys2Proof.Machine.execUmlal c sb rdHi rdLo rs rm s
  | .smull c sb rdHi rdLo rs rm => Sys2Proof.Machine.execSmull c sb rdHi rdLo rs rm s
  | .smlal c sb rdHi rdLo rs rm => Sys2Proof.Machine.execSmlal c sb rdHi rdLo rs rm s
  | .swp c rn rd rm => Sys2Proof.Machine.execSwp c rn rd rm s
  | .swpb c rn rd rm => Sys2Proof.Machine.execSwpb c rn rd rm s
  | .ldrhImm c p u w rn rd offset => Sys2Proof.Machine.execLdrhImm c p u w rn rd offset s
  | .ldrhReg c p u w rn rd rm => Sys2Proof.Machine.execLdrhReg c p u w rn rd rm s
  | .ldrsbImm c p u w rn rd offset => Sys2Proof.Machine.execLdrsbImm c p u w rn rd offset s
  | .ldrsbReg c p u w rn rd rm => Sys2Proof.Machine.execLdrsbReg c p u w rn rd rm s
  | .ldrshImm c p u w rn rd offset => Sys2Proof.Machine.execLdrshImm c p u w rn rd offset s
  | .ldrshReg c p u w rn rd rm => Sys2Proof.Machine.execLdrshReg c p u w rn rd rm s
  | .strhImm c p u w rn rd offset => Sys2Proof.Machine.execStrhImm c p u w rn rd offset s
  | .strhReg c p u w rn rd rm => Sys2Proof.Machine.execStrhReg c p u w rn rd rm s
  | .nrHalfwordSpace word => Sys2Proof.Machine.execNrHalfwordSpace word s
  | .andImm c sb rn rd rotate imm8 => Sys2Proof.Machine.execAndImm c sb rn rd rotate imm8 s
  | .andRegImm c sb rn rd amount ty rm => Sys2Proof.Machine.execAndRegImm c sb rn rd amount ty rm s
  | .andRegReg c sb rn rd rs ty rm => Sys2Proof.Machine.execAndRegReg c sb rn rd rs ty rm s
  | .eorImm c sb rn rd rotate imm8 => Sys2Proof.Machine.execEorImm c sb rn rd rotate imm8 s
  | .eorRegImm c sb rn rd amount ty rm => Sys2Proof.Machine.execEorRegImm c sb rn rd amount ty rm s
  | .eorRegReg c sb rn rd rs ty rm => Sys2Proof.Machine.execEorRegReg c sb rn rd rs ty rm s
  | .subImm c sb rn rd rotate imm8 => Sys2Proof.Machine.execSubImm c sb rn rd rotate imm8 s
  | .subRegImm c sb rn rd amount ty rm => Sys2Proof.Machine.execSubRegImm c sb rn rd amount ty rm s
  | .subRegReg c sb rn rd rs ty rm => Sys2Proof.Machine.execSubRegReg c sb rn rd rs ty rm s
  | .rsbImm c sb rn rd rotate imm8 => Sys2Proof.Machine.execRsbImm c sb rn rd rotate imm8 s
  | .rsbRegImm c sb rn rd amount ty rm => Sys2Proof.Machine.execRsbRegImm c sb rn rd amount ty rm s
  | .rsbRegReg c sb rn rd rs ty rm => Sys2Proof.Machine.execRsbRegReg c sb rn rd rs ty rm s
  | .addImm c sb rn rd rotate imm8 => Sys2Proof.Machine.execAddImm c sb rn rd rotate imm8 s
  | .addRegImm c sb rn rd amount ty rm => Sys2Proof.Machine.execAddRegImm c sb rn rd amount ty rm s
  | .addRegReg c sb rn rd rs ty rm => Sys2Proof.Machine.execAddRegReg c sb rn rd rs ty rm s
  | .adcImm c sb rn rd rotate imm8 => Sys2Proof.Machine.execAdcImm c sb rn rd rotate imm8 s
  | .adcRegImm c sb rn rd amount ty rm => Sys2Proof.Machine.execAdcRegImm c sb rn rd amount ty rm s
  | .adcRegReg c sb rn rd rs ty rm => Sys2Proof.Machine.execAdcRegReg c sb rn rd rs ty rm s
  | .sbcImm c sb rn rd rotate imm8 => Sys2Proof.Machine.execSbcImm c sb rn rd rotate imm8 s
  | .sbcRegImm c sb rn rd amount ty rm => Sys2Proof.Machine.execSbcRegImm c sb rn rd amount ty rm s
  | .sbcRegReg c sb rn rd rs ty rm => Sys2Proof.Machine.execSbcRegReg c sb rn rd rs ty rm s
  | .rscImm c sb rn rd rotate imm8 => Sys2Proof.Machine.execRscImm c sb rn rd rotate imm8 s
  | .rscRegImm c sb rn rd amount ty rm => Sys2Proof.Machine.execRscRegImm c sb rn rd amount ty rm s
  | .rscRegReg c sb rn rd rs ty rm => Sys2Proof.Machine.execRscRegReg c sb rn rd rs ty rm s
  | .tstImm c sb rn rd rotate imm8 => Sys2Proof.Machine.execTstImm c sb rn rd rotate imm8 s
  | .tstRegImm c sb rn rd amount ty rm => Sys2Proof.Machine.execTstRegImm c sb rn rd amount ty rm s
  | .tstRegReg c sb rn rd rs ty rm => Sys2Proof.Machine.execTstRegReg c sb rn rd rs ty rm s
  | .teqImm c sb rn rd rotate imm8 => Sys2Proof.Machine.execTeqImm c sb rn rd rotate imm8 s
  | .teqRegImm c sb rn rd amount ty rm => Sys2Proof.Machine.execTeqRegImm c sb rn rd amount ty rm s
  | .teqRegReg c sb rn rd rs ty rm => Sys2Proof.Machine.execTeqRegReg c sb rn rd rs ty rm s
  | .cmpImm c sb rn rd rotate imm8 => Sys2Proof.Machine.execCmpImm c sb rn rd rotate imm8 s
  | .cmpRegImm c sb rn rd amount ty rm => Sys2Proof.Machine.execCmpRegImm c sb rn rd amount ty rm s
  | .cmpRegReg c sb rn rd rs ty rm => Sys2Proof.Machine.execCmpRegReg c sb rn rd rs ty rm s
  | .cmnImm c sb rn rd rotate imm8 => Sys2Proof.Machine.execCmnImm c sb rn rd rotate imm8 s
  | .cmnRegImm c sb rn rd amount ty rm => Sys2Proof.Machine.execCmnRegImm c sb rn rd amount ty rm s
  | .cmnRegReg c sb rn rd rs ty rm => Sys2Proof.Machine.execCmnRegReg c sb rn rd rs ty rm s
  | .orrImm c sb rn rd rotate imm8 => Sys2Proof.Machine.execOrrImm c sb rn rd rotate imm8 s
  | .orrRegImm c sb rn rd amount ty rm => Sys2Proof.Machine.execOrrRegImm c sb rn rd amount ty rm s
  | .orrRegReg c sb rn rd rs ty rm => Sys2Proof.Machine.execOrrRegReg c sb rn rd rs ty rm s
  | .movImm c sb rn rd rotate imm8 => Sys2Proof.Machine.execMovImm c sb rn rd rotate imm8 s
  | .movRegImm c sb rn rd amount ty rm => Sys2Proof.Machine.execMovRegImm c sb rn rd amount ty rm s
  | .movRegReg c sb rn rd rs ty rm => Sys2Proof.Machine.execMovRegReg c sb rn rd rs ty rm s
  | .bicImm c sb rn rd rotate imm8 => Sys2Proof.Machine.execBicImm c sb rn rd rotate imm8 s
  | .bicRegImm c sb rn rd amount ty rm => Sys2Proof.Machine.execBicRegImm c sb rn rd amount ty rm s
  | .bicRegReg c sb rn rd rs ty rm => Sys2Proof.Machine.execBicRegReg c sb rn rd rs ty rm s
  | .mvnImm c sb rn rd rotate imm8 => Sys2Proof.Machine.execMvnImm c sb rn rd rotate imm8 s
  | .mvnRegImm c sb rn rd amount ty rm => Sys2Proof.Machine.execMvnRegImm c sb rn rd amount ty rm s
  | .mvnRegReg c sb rn rd rs ty rm => Sys2Proof.Machine.execMvnRegReg c sb rn rd rs ty rm s
  | .ldrImm c p u w rn rd offset => Sys2Proof.Machine.execLdrImm c p u w rn rd offset s
  | .ldrReg c p u w rn rd amount ty rm => Sys2Proof.Machine.execLdrReg c p u w rn rd amount ty rm s
  | .ldrbImm c p u w rn rd offset => Sys2Proof.Machine.execLdrbImm c p u w rn rd offset s
  | .ldrbReg c p u w rn rd amount ty rm => Sys2Proof.Machine.execLdrbReg c p u w rn rd amount ty rm s
  | .strImm c p u w rn rd offset => Sys2Proof.Machine.execStrImm c p u w rn rd offset s
  | .strReg c p u w rn rd amount ty rm => Sys2Proof.Machine.execStrReg c p u w rn rd amount ty rm s
  | .strbImm c p u w rn rd offset => Sys2Proof.Machine.execStrbImm c p u w rn rd offset s
  | .strbReg c p u w rn rd amount ty rm => Sys2Proof.Machine.execStrbReg c p u w rn rd amount ty rm s
  | .nrUndefinedSpace word => Sys2Proof.Machine.execNrUndefinedSpace word s
  | .ldm c p u sb w rn list => Sys2Proof.Machine.execLdm c p u sb w rn list s
  | .stm c p u sb w rn list => Sys2Proof.Machine.execStm c p u sb w rn list s
  | .nrCoprocessorSpace word => Sys2Proof.Machine.execNrCoprocessorSpace word s
  | .tAddReg rn rs rd => Sys2Proof.Machine.execTAddReg rn rs rd s
  | .tSubReg rn rs rd => Sys2Proof.Machine.execTSubReg rn rs rd s
  | .tAddImm3 imm3 rs rd => Sys2Proof.Machine.execTAddImm3 imm3 rs rd s
  | .tSubImm3 imm3 rs rd => Sys2Proof.Machine.execTSubImm3 imm3 rs rd s
  | .tLslImm offset5 rs rd => Sys2Proof.Machine.execTLslImm offset5 rs rd s
  | .tLsrImm offset5 rs rd => Sys2Proof.Machine.execTLsrImm offset5 rs rd s
  | .tAsrImm offset5 rs rd => Sys2Proof.Machine.execTAsrImm offset5 rs rd s
  | .tMovImm rd imm8 => Sys2Proof.Machine.execTMovImm rd imm8 s
  | .tCmpImm rd imm8 => Sys2Proof.Machine.execTCmpImm rd imm8 s
  | .tAddImm8 rd imm8 => Sys2Proof.Machine.execTAddImm8 rd imm8 s
  | .tSubImm8 rd imm8 => Sys2Proof.Machine.execTSubImm8 rd imm8 s
  | .tAnd rs rd => Sys2Proof.Machine.execTAnd rs rd s
  | .tEor rs rd => Sys2Proof.Machine.execTEor rs rd s
  | .tLsl rs rd => Sys2Proof.Machine.execTLsl rs rd s
  | .tLsr rs rd => Sys2Proof.Machine.execTLsr rs rd s
  | .tAsr rs rd => Sys2Proof.Machine.execTAsr rs rd s
  | .tAdc rs rd => Sys2Proof.Machine.execTAdc rs rd s
  | .tSbc rs rd => Sys2Proof.Machine.execTSbc rs rd s
  | .tRor rs rd => Sys2Proof.Machine.execTRor rs rd s
  | .tTst rs rd => Sys2Proof.Machine.execTTst rs rd s
  | .tNeg rs rd => Sys2Proof.Machine.execTNeg rs rd s
  | .tCmp rs rd => Sys2Proof.Machine.execTCmp rs rd s
  | .tCmn rs rd => Sys2Proof.Machine.execTCmn rs rd s
  | .tOrr rs rd => Sys2Proof.Machine.execTOrr rs rd s
  | .tMul rs rd => Sys2Proof.Machine.execTMul rs rd s
  | .tBic rs rd => Sys2Proof.Machine.execTBic rs rd s
  | .tMvn rs rd => Sys2Proof.Machine.execTMvn rs rd s
  | .tAddHiH1 rs rd => Sys2Proof.Machine.execTAddHiH1 rs rd s
  | .tAddHiH2 rs rd => Sys2Proof.Machine.execTAddHiH2 rs rd s
  | .tCmpHiH1 rs rd => Sys2Proof.Machine.execTCmpHiH1 rs rd s
  | .tCmpHiH2 rs rd => Sys2Proof.Machine.execTCmpHiH2 rs rd s
  | .tMovHiH1 rs rd => Sys2Proof.Machine.execTMovHiH1 rs rd s
  | .tMovHiH2 rs rd => Sys2Proof.Machine.execTMovHiH2 rs rd s
  | .tBx rs => Sys2Proof.Machine.execTBx rs s
  | .nrHighRegisterSpace half => Sys2Proof.Machine.execNrHighRegisterSpace half s
  | .tLdrPc rd word8 => Sys2Proof.Machine.execTLdrPc rd word8 s
  | .tStrhReg ro rb rd => Sys2Proof.Machine.execTStrhReg ro rb rd s
  | .tLdsbReg ro rb rd => Sys2Proof.Machine.execTLdsbReg ro rb rd s
  | .tLdrhReg ro rb rd => Sys2Proof.Machine.execTLdrhReg ro rb rd s
  | .tLdshReg ro rb rd => Sys2Proof.Machine.execTLdshReg ro rb rd s
  | .tStrReg ro rb rd => Sys2Proof.Machine.execTStrReg ro rb rd s
  | .tStrbReg ro rb rd => Sys2Proof.Machine.execTStrbReg ro rb rd s
  | .tLdrReg ro rb rd => Sys2Proof.Machine.execTLdrReg ro rb rd s
  | .tLdrbReg ro rb rd => Sys2Proof.Machine.execTLdrbReg ro rb rd s
  | .tStrImm offset5 rb rd => Sys2Proof.Machine.execTStrImm offset5 rb rd s
  | .tLdrImm offset5 rb rd => Sys2Proof.Machine.execTLdrImm offset5 rb rd s
  | .tStrbImm offset5 rb rd => Sys2Proof.Machine.execTStrbImm offset5 rb rd s
  | .tLdrbImm offset5 rb rd => Sys2Proof.Machine.execTLdrbImm offset5 rb rd s
  | .tStrhImm offset5 rb rd => Sys2Proof.Machine.execTStrhImm offset5 rb rd s
  | .tLdrhImm offset5 rb rd => Sys2Proof.Machine.execTLdrhImm offset5 rb rd s
  | .tStrSp rd word8 => Sys2Proof.Machine.execTStrSp rd word8 s
  | .tLdrSp rd word8 => Sys2Proof.Machine.execTLdrSp rd word8 s
  | .tAddPc rd word8 => Sys2Proof.Machine.execTAddPc rd word8 s
  | .tAddSp rd word8 => Sys2Proof.Machine.execTAddSp rd word8 s
  | .tAddSpImm sword7 => Sys2Proof.Machine.execTAddSpImm sword7 s
  | .tSubSpImm sword7 => Sys2Proof.Machine.execTSubSpImm sword7 s
  | .tPush lr list => Sys2Proof.Machine.execTPush lr list s
  | .tPop list => Sys2Proof.Machine.execTPop list s
  | .tPopPc list => Sys2Proof.Machine.execTPopPc list s
  | .tStmia rb list => Sys2Proof.Machine.execTStmia rb list s
  | .tLdmia rb list => Sys2Proof.Machine.execTLdmia rb list s
  | .tSwi value8 => Sys2Proof.Machine.execTSwi value8 s
  | .nrCond14 half => Sys2Proof.Machine.execNrCond14 half s
  | .tBCond c soffset8 => Sys2Proof.Machine.execTBCond c soffset8 s
  | .tB offset11 => Sys2Proof.Machine.execTB offset11 s
  | .tBlFirst offset11 => Sys2Proof.Machine.execTBlFirst offset11 s
  | .tBlSecond offset11 => Sys2Proof.Machine.execTBlSecond offset11 s
  | .nrNarrow half => Sys2Proof.Machine.execNrNarrow half s

end Sys2Proof.Machine
end

