-- ==== Sys2Proof/Machine/Interrupt.lean ====
section
/-! DEFINITION. The pending test, the priority of the interrupt types, and the servicing of an interrupt (60_exceptions.md R431,
R432, R441). -/

namespace Sys2Proof.Machine

open Sys2Proof

/-- `checkPending()` (R431); `CPSR.I` is not consulted (R433). -/
def State.checkPending (s : State) : Bool := s.ime && (s.ie &&& s.ifr) != 0

/-- The three names the document gives the interrupt state between steps (R434; `Servicing` is never seen between steps). -/
inductive ControllerState where
  | halted | pending | idle
  deriving DecidableEq, Repr

/-- The name that holds (R434): a reading of the stored state, not state of its own. -/
def State.controllerState (s : State) : ControllerState :=
  if s.halted then .halted else if (s.ie &&& s.ifr) != 0 then .pending else .idle

/-- The interrupt types in ascending order (R421). -/
def allTypes : List (Fin 14) := [0, 1, 2, 3, 4, 5, 6, 7, 8, 9, 10, 11, 12, 13]

/-- The lowest-numbered type of a mask (R432). -/
def lowestType (x : BitVec 14) : Option (Fin 14) := allTypes.find? (fun k => x.getLsbD k.val)

/-- The mask of one interrupt type (R421). -/
def typeBit (k : Fin 14) : BitVec 14 := putBit 14 k.val true

/-- The pending mask after the winner's bit is cleared (R441). -/
def State.clearWinner (s : State) : BitVec 14 :=
  match lowestType (s.ie &&& s.ifr) with
  | some k => s.ifr &&& ~~~ typeBit k
  | none => s.ifr

/-- Interrupt servicing (R441): entry into IRQ mode with the link value `pc - 4`, the winner's pending bit and the halt cleared,
cost 3. -/
def State.serviceInterrupt (s : State) : State :=
  ((((s.enter .irq s.cfg.vecIrq (s.pc - 4)).setIfr s.clearWinner).setHalted false).addCycles 3)

end Sys2Proof.Machine
end

