-- ==== Sys2Proof/Machine/Execute.lean ====
section
/-! DEFINITION. Fetching, and the executing path of a step (40_pipeline_and_condition.md R143 to R147); and how an instruction is
laid where the next fetch takes it from. -/

namespace Sys2Proof.Machine

open Sys2Proof

/-- The width of a fetch (R31, R143). -/
def fetchWidth (t : Bool) : Width := if t then .half else .word

/-- `Fetch` at the program counter (R64, R143): the word of the current form, and the state after the bus reads. -/
def State.fetch (s : State) : CodeWord × State :=
  (CodeWord.ofValue s.cpsr.t (s.memRead (fetchWidth s.cpsr.t) s.pc).1, (s.memRead (fetchWidth s.cpsr.t) s.pc).2)

/-- Path 3 of the step (R143 to R147): fetch, decode, then `DecodeError` before `NotImplemented` before the condition gate
(R447). -/
def State.executeOne (s : State) : Out :=
  match (decode s.fetch.1).category with
  | none => exec (decode s.fetch.1) s.fetch.2
  | some cat =>
    if s.cfg.unimplemented.contains cat then .fault (.notImplemented s.pc s.fetch.1.value cat)
    else exec (decode s.fetch.1) s.fetch.2

/-- Bytes in ascending order placed in the memory list itself, whatever the region's kind. -/
def placeBytes (m : Memory) (a : Nat) : List Byte → Memory
  | [] => m
  | b :: bs => placeBytes (m.write a b) (a + 1) bs

/-- Whether an address reads from the memory list (R67). -/
def RegionKind.inMemory : RegionKind → Bool
  | .ram => true
  | .rom => true
  | .intc => false
  | .device => false
  | .open1 => false
  | .open0 => false

/-- Whether the `n` bytes from `p` all read from the memory list. -/
def State.allInMemory (s : State) (p : Word) : Nat → Bool
  | 0 => true
  | n + 1 => RegionKind.inMemory (s.kind p) && s.allInMemory (p + 1) n

/-- The parameters under which the `n` bytes from `p` read from the memory list: unchanged where they already do, else with a
configured ROM range laid over them. -/
def State.coverFetch (s : State) (p : Word) (n : Nat) : Config :=
  if s.allInMemory p n then s.cfg
  else { s.cfg with memMap := ⟨p.toNat, p.toNat + (n - 1), .rom⟩ :: s.cfg.memMap }

/-- The state whose next step fetches and runs the instruction of the table word `w` (log entry 4): its form selected, its bytes
at the program counter, no halt and no serviceable interrupt before it. -/
def State.placeFetchWord (s : State) (nbits w : Nat) : State :=
  let narrow := decide (nbits ≤ 16)
  let pc := (fetchWidth narrow).alignDown s.pc
  let bytes := splitBytes (BitVec.ofNat 32 w) (formBytes narrow)
  { s with
    cpsr := { s.cpsr with t := narrow }
    pc := pc
    halted := false
    ime := s.ime && !s.checkPending
    mem := placeBytes s.mem pc.toNat bytes
    cfg := s.coverFetch pc (formBytes narrow) }

end Sys2Proof.Machine
end

