-- ==== Sys2Proof/Machine/Step.lean ====
section
/-! DEFINITION. One step of the machine (40_pipeline_and_condition.md R140). -/

namespace Sys2Proof.Machine

open Sys2Proof

/-- `step()` (R140): a serviceable interrupt first, then the halt, then the instruction at the program counter. -/
def step (s : State) : Host.Outcome State Fault Refusal :=
  if s.checkPending then .next s.serviceInterrupt
  else if s.halted then .next (s.addCycles 1)
  else s.executeOne

/-- `s` with the instruction of a table word stored where `step` fetches its next instruction. -/
def State.withFetchWord (s : State) (nbits w : Nat) : State := s.placeFetchWord nbits w

end Sys2Proof.Machine
end

