-- ==== Sys2Proof/Machine/HostPort.lean ====
section
/-! DEFINITION. What the environment and the host do to the block between two steps: interrupt requests (R428), reset (R470), the
snapshot port (R480, R481), and the environment's own writes to RAM (R84). -/

namespace Sys2Proof.Machine

open Sys2Proof

/-- `requestInterrupt(k)` (R428). -/
def State.requestInterrupt (s : State) (k : Fin 14) : State := s.requestMask (typeBit k)

/-- `reset()` (R470): memory and the parameters are not touched (R474). -/
def State.applyReset (s : State) : State := State.resetWith s.cfg s.mem s.draws s.bus

/-- A byte of RAM changed by the environment, which it may do between steps where `ENV_MAY_WRITE_RAM` is set (R84). -/
def State.envWriteRam (s : State) (p : Word) (b : Byte) : State :=
  if s.cfg.envMayWriteRam && s.kind p == .ram then s.setMem (s.mem.write p.toNat b) else s

/-! ### Snapshots -/

/-- The fields of the persisted state (R480): the 31 physical general registers, CPSR, the five SPSRs, and the others by their
names. -/
inductive SnapshotField where
  | reg (p : PhysReg)
  | cpsr
  | spsr (e : ExcMode)
  | mode
  | instructionWidthFlag
  | cycles
  | ie
  | ifr
  | ime
  | halted
  deriving DecidableEq, Repr

/-- Every field. -/
def SnapshotField.all : List SnapshotField :=
  (List.finRange 8).map (fun i => .reg (.low i)) ++ (List.finRange 5).map (fun i => .reg (.mid i)) ++
    (List.finRange 5).map (fun i => .reg (.midFiq i)) ++
    [Bank.usr, .fiq, .irq, .svc, .abt, .und].map (fun b => .reg (.sp b)) ++
    [Bank.usr, .fiq, .irq, .svc, .abt, .und].map (fun b => .reg (.lr b)) ++
    [ExcMode.fiq, .irq, .svc, .abt, .und].map .spsr ++
    [.reg .pc, .cpsr, .mode, .instructionWidthFlag, .cycles, .ie, .ifr, .ime, .halted]

/-- What a snapshot holds for a field: bits of some width, or an unbounded number. -/
inductive FieldValue where
  | bits (width : Nat) (value : BitVec width)
  | number (n : Nat)
  deriving DecidableEq, Repr

/-- What a host offers to `loadState`: fields with their values. A field can be missing, and its value can have any width. DESIGN
CHOICE: the first entry of a field is the one that counts (log entry 18; unsafe). -/
abbrev Snapshot := List (SnapshotField × FieldValue)

/-- Whether a value of `w` bits has the width of the field (R480). `IE` and `IF` are 14 bits; DESIGN CHOICE: they may come in
more, since R481 tests the bits above 13 on their own (log entry 18; unsafe). `CYCLES` is a number and not bits (R44). -/
def SnapshotField.hasWidth (f : SnapshotField) (w : Nat) : Bool :=
  match f with
  | .reg _ => w == 32
  | .cpsr => w == 32
  | .spsr _ => w == 32
  | .mode => w == 5
  | .instructionWidthFlag => w == 1
  | .cycles => false
  | .ie => 14 ≤ w
  | .ifr => 14 ≤ w
  | .ime => w == 1
  | .halted => w == 1

/-- Whether a value is one the field can hold. -/
def FieldValue.fits (v : FieldValue) (f : SnapshotField) : Bool :=
  match v with
  | .bits w _ => f.hasWidth w
  | .number _ => f == .cycles

/-- Whether the field is there, with the right width (R481). -/
def Snapshot.holds (x : Snapshot) (f : SnapshotField) : Bool :=
  match List.lookup f x with
  | some v => v.fits f
  | none => false

/-- The low `n` bits of a field. -/
def Snapshot.bits (x : Snapshot) (n : Nat) (f : SnapshotField) : BitVec n :=
  match List.lookup f x with
  | some (.bits _ v) => v.setWidth n
  | _ => 0

/-- Whether a field has a bit set from bit `lo` upwards. -/
def Snapshot.bitsFrom (x : Snapshot) (lo : Nat) (f : SnapshotField) : Bool :=
  match List.lookup f x with
  | some (.bits _ v) => v >>> lo != 0
  | _ => false

/-- The number a field holds. -/
def Snapshot.number (x : Snapshot) (f : SnapshotField) : Nat :=
  match List.lookup f x with
  | some (.number n) => n
  | _ => 0

/-- A status register of a snapshot. -/
def Snapshot.psr (x : Snapshot) (f : SnapshotField) : Psr := Psr.ofWord (x.bits 32 f)

/-- A field of one bit. -/
def Snapshot.flag (x : Snapshot) (f : SnapshotField) : Bool := (x.bits 1 f).getLsbD 0

/-- What `saveState()` stores for a field (R480). -/
def State.snapshotValue (s : State) : SnapshotField → FieldValue
  | .reg p => .bits 32 (s.phys p)
  | .cpsr => .bits 32 s.cpsr.toWord
  | .spsr e => .bits 32 (s.spsr.get e).toWord
  | .mode => .bits 5 s.cpsr.m
  | .instructionWidthFlag => .bits 1 (BitVec.ofBool s.cpsr.t)
  | .cycles => .number s.cycles
  | .ie => .bits 14 s.ie
  | .ifr => .bits 14 s.ifr
  | .ime => .bits 1 (BitVec.ofBool s.ime)
  | .halted => .bits 1 (BitVec.ofBool s.halted)

/-- `saveState()` (R480). -/
def State.saveState (s : State) : Snapshot := SnapshotField.all.map (fun f => (f, s.snapshotValue f))

/-- `StateError` (R481). -/
inductive StateError where
  /-- the snapshot is malformed; raised by `loadState`, which then changes nothing -/
  | malformed
  deriving DecidableEq, Repr

/-- Whether a snapshot can be loaded (R481): no field is missing or of the wrong width; the mode number is that of a mode; the mode
and the width flag agree with CPSR; IE and IF have no bit above 13; and r15 is aligned to the width that T selects. -/
def Snapshot.wellFormed (x : Snapshot) : Bool :=
  SnapshotField.all.all x.holds &&
    (Mode.ofBits (x.psr .cpsr).m).isSome && x.bits 5 .mode == (x.psr .cpsr).m &&
    x.flag .instructionWidthFlag == (x.psr .cpsr).t && !x.bitsFrom 14 .ie && !x.bitsFrom 14 .ifr &&
    alignPc (x.psr .cpsr).t (x.bits 32 (.reg .pc)) == x.bits 32 (.reg .pc)

/-- The six copies of r13 or of r14 in a snapshot. -/
def Snapshot.banked (x : Snapshot) (copy : Bank → PhysReg) : Banked where
  usr := x.bits 32 (.reg (copy .usr))
  fiq := x.bits 32 (.reg (copy .fiq))
  irq := x.bits 32 (.reg (copy .irq))
  svc := x.bits 32 (.reg (copy .svc))
  abt := x.bits 32 (.reg (copy .abt))
  und := x.bits 32 (.reg (copy .und))

/-- The general registers of a snapshot other than r15. -/
def Snapshot.regFile (x : Snapshot) : RegFile where
  low := Vector.ofFn fun i => x.bits 32 (.reg (.low i))
  mid := Vector.ofFn fun i => x.bits 32 (.reg (.mid i))
  midFiq := Vector.ofFn fun i => x.bits 32 (.reg (.midFiq i))
  sp := x.banked .sp
  lr := x.banked .lr

/-- The saved status registers of a snapshot. -/
def Snapshot.spsrFile (x : Snapshot) : SpsrFile where
  fiq := x.psr (.spsr .fiq)
  irq := x.psr (.spsr .irq)
  svc := x.psr (.spsr .svc)
  abt := x.psr (.spsr .abt)
  und := x.psr (.spsr .und)

/-- The state of the block replaced by a snapshot's; memory and the parameters stay (R480). -/
def State.restoreFrom (s : State) (x : Snapshot) : State :=
  { s with
    regs := x.regFile
    pc := x.bits 32 (.reg .pc)
    cpsr := x.psr .cpsr
    spsr := x.spsrFile
    ie := x.bits 14 .ie
    ifr := x.bits 14 .ifr
    ime := x.flag .ime
    halted := x.flag .halted
    cycles := x.number .cycles }

/-- `loadState(snapshot)` (R481): all or nothing. -/
def State.loadState (s : State) (x : Snapshot) : Except StateError State :=
  if x.wellFormed then .ok (s.restoreFrom x) else .error .malformed

end Sys2Proof.Machine
end

