-- ==== Sys2Proof/Safety.lean ====
section
/-! DEFINITION. The terms that claims are stated in: what a run without a stop is, the invariants of the state, the frames of
instructions, and the operands of the transfer families read off an instruction. -/

namespace Sys2Proof.Machine

open Sys2Proof

/-! ### Runs -/

/-- `n` steps from `s` all answer a next state: no `DecodeError`, no `NotImplemented` and no `Refused` on the way (R9). DESIGN CHOICE:
R154 leaves the end of a run to the model; here a run ends after a given number of steps, not where the program counter
reaches some address, and an error outcome before that ends it (log entry 20; safe). -/
def RunsSafely (n : Nat) (s : State) : Prop := ∃ t, Host.Core.run core n s = .next t

/-! ### Invariants -/

/-- The memory list is in its canonical form. -/
def State.memCanonical (s : State) : Prop := Memory.wf s.mem

/-- The stored program counter is aligned to the instruction width (R29). -/
def State.pcAligned (s : State) : Prop := alignPc s.cpsr.t s.pc = s.pc

/-- The processor is in one of the seven modes (R21). -/
def State.modeLegal (s : State) : Prop := (Mode.ofBits s.cpsr.m).isSome = true

/-- Bits 27:8 of CPSR and of every SPSR are zero (R34). -/
def State.reservedClear (s : State) : Prop := s.cpsr.reserved = 0 ∧ ∀ e, (s.spsr.get e).reserved = 0

/-- The mode numbers that a run from reset can meet in CPSR (R461). -/
def reachedModes : List (BitVec 5) := [Mode.sys.bits, Mode.irq.bits, Mode.svc.bits]

/-- CPSR holds the number of a mode that a run from reset can enter, and every SPSR such a number or its reset value 0 (R461). -/
def State.modesReached (s : State) : Prop :=
  s.cpsr.m ∈ reachedModes ∧ ∀ e, (s.spsr.get e).m = 0 ∨ (s.spsr.get e).m ∈ reachedModes

/-! ### Frames -/

/-- Every physical general register but those of a list, and but r15, holds what it held. -/
def RegsBut (ds : List PhysReg) (s t : State) : Prop := ∀ p, p ≠ .pc → p ∉ ds → t.phys p = s.phys p

/-- Everything but the general registers, r15, CPSR and `CYCLES` is what it was. -/
def RestSame (s t : State) : Prop :=
  t.spsr = s.spsr ∧ t.ie = s.ie ∧ t.ifr = s.ifr ∧ t.ime = s.ime ∧ t.halted = s.halted ∧ t.mem = s.mem ∧ t.cfg = s.cfg ∧
    t.draws = s.draws ∧ t.bus = s.bus

/-- Everything but the general registers, r15, CPSR, `CYCLES` and the record of what a read of a DEVICE byte draws and delivers
is what it was. -/
def RestSameButBus (s t : State) : Prop :=
  t.spsr = s.spsr ∧ t.ie = s.ie ∧ t.ifr = s.ifr ∧ t.ime = s.ime ∧ t.halted = s.halted ∧ t.mem = s.mem ∧ t.cfg = s.cfg

/-- Everything but the general registers, r15, CPSR, `CYCLES` and the count of free values drawn is what it was. -/
def RestSameButDraws (s t : State) : Prop :=
  t.spsr = s.spsr ∧ t.ie = s.ie ∧ t.ifr = s.ifr ∧ t.ime = s.ime ∧ t.halted = s.halted ∧ t.mem = s.mem ∧ t.cfg = s.cfg ∧
    t.bus = s.bus

/-- What stores can reach is in `t` as it is in `m`, and the saved status registers and the parameters are those of `s`. -/
def StoredAs (m s t : State) : Prop :=
  t.spsr = s.spsr ∧ t.cfg = s.cfg ∧ t.mem = m.mem ∧ t.ie = m.ie ∧ t.ifr = m.ifr ∧ t.ime = m.ime ∧ t.halted = m.halted ∧
    t.draws = m.draws ∧ t.bus = m.bus

/-- Address `a + k`, modulo 2^32 (R11). -/
def byteAddr (a : Word) (k : Nat) : Word := a + BitVec.ofNat 32 k

/-- The bytes of memory after a store of the low bytes of `v` at the `n` addresses from `a`: every stored byte that lies in RAM holds
its part of `v`, lowest byte first, and every other byte of memory holds what it held (R63, R65). -/
def BytesStored (n : Nat) (a v : Word) (s t : State) : Prop :=
  (∀ k, k < n → s.kind (byteAddr a k) = .ram → t.mem.read (byteAddr a k).toNat = (v >>> (8 * k)).setWidth 8) ∧
    ∀ b : Word, (∀ k, k < n → b ≠ byteAddr a k) → t.mem.read b.toNat = s.mem.read b.toNat

/-- The interrupt controller, the halt, the draws and the record of DEVICE accesses are what they were unless one of the `n` bytes
from `a` belongs to the interrupt controller or to a device (R63). -/
def QuietStore (n : Nat) (a : Word) (s t : State) : Prop :=
  (∀ k, k < n → s.kind (byteAddr a k) ≠ .intc ∧ s.kind (byteAddr a k) ≠ .device) →
    t.ie = s.ie ∧ t.ifr = s.ifr ∧ t.ime = s.ime ∧ t.halted = s.halted ∧ t.draws = s.draws ∧ t.bus = s.bus

/-- The `n` bytes from `a` all read from the memory list (R67: RAM and ROM). -/
def InMemory (n : Nat) (a : Word) (s : State) : Prop := ∀ k, k < n → RegionKind.inMemory (s.kind (byteAddr a k)) = true

/-- The word whose four bytes lie in memory from `a`, lowest byte first (R65). -/
def wordAt (s : State) (a : Word) : Word :=
  s.mem.read (byteAddr a 3).toNat ++ s.mem.read (byteAddr a 2).toNat ++ s.mem.read (byteAddr a 1).toNat ++
    s.mem.read (byteAddr a 0).toNat

/-- The halfword whose two bytes lie in memory from `a`. -/
def halfAt (s : State) (a : Word) : Half := s.mem.read (byteAddr a 1).toNat ++ s.mem.read (byteAddr a 0).toNat

/-- The program counter has moved past the instruction and `cost` cycles are counted (R147, R148). -/
def Sequential (f : Form) (cost : Nat) (s t : State) : Prop := t.pc = s.pc + f.size ∧ t.cycles = s.cycles + cost

/-- `pc <- v` masked by the `T` of the state reached, and `cost` cycles are counted (R29, R147, R148). -/
def Redirected (v : Word) (cost : Nat) (s t : State) : Prop := t.pc = alignPc t.cpsr.t v ∧ t.cycles = s.cycles + cost

/-! ### The condition field -/

/-- The condition of a wide instruction; narrow instructions but format 16 have none (R115, R152), and a `NotRecognized` word is
reported whatever its condition (R304). -/
def condOf : Instr → Option Cond
  | .swi c _ => some c
  | .bx c _ => some c
  | .b c _ => some c
  | .bl c _ => some c
  | .mul c _ _ _ _ _ => some c
  | .mla c _ _ _ _ _ => some c
  | .umull c _ _ _ _ _ => some c
  | .umlal c _ _ _ _ _ => some c
  | .smull c _ _ _ _ _ => some c
  | .smlal c _ _ _ _ _ => some c
  | .swp c _ _ _ => some c
  | .swpb c _ _ _ => some c
  | .ldrhImm c _ _ _ _ _ _ => some c
  | .ldrhReg c _ _ _ _ _ _ => some c
  | .ldrsbImm c _ _ _ _ _ _ => some c
  | .ldrsbReg c _ _ _ _ _ _ => some c
  | .ldrshImm c _ _ _ _ _ _ => some c
  | .ldrshReg c _ _ _ _ _ _ => some c
  | .strhImm c _ _ _ _ _ _ => some c
  | .strhReg c _ _ _ _ _ _ => some c
  | .andImm c _ _ _ _ _ => some c
  | .andRegImm c _ _ _ _ _ _ => some c
  | .andRegReg c _ _ _ _ _ _ => some c
  | .eorImm c _ _ _ _ _ => some c
  | .eorRegImm c _ _ _ _ _ _ => some c
  | .eorRegReg c _ _ _ _ _ _ => some c
  | .subImm c _ _ _ _ _ => some c
  | .subRegImm c _ _ _ _ _ _ => some c
  | .subRegReg c _ _ _ _ _ _ => some c
  | .rsbImm c _ _ _ _ _ => some c
  | .rsbRegImm c _ _ _ _ _ _ => some c
  | .rsbRegReg c _ _ _ _ _ _ => some c
  | .addImm c _ _ _ _ _ => some c
  | .addRegImm c _ _ _ _ _ _ => some c
  | .addRegReg c _ _ _ _ _ _ => some c
  | .adcImm c _ _ _ _ _ => some c
  | .adcRegImm c _ _ _ _ _ _ => some c
  | .adcRegReg c _ _ _ _ _ _ => some c
  | .sbcImm c _ _ _ _ _ => some c
  | .sbcRegImm c _ _ _ _ _ _ => some c
  | .sbcRegReg c _ _ _ _ _ _ => some c
  | .rscImm c _ _ _ _ _ => some c
  | .rscRegImm c _ _ _ _ _ _ => some c
  | .rscRegReg c _ _ _ _ _ _ => some c
  | .tstImm c _ _ _ _ _ => some c
  | .tstRegImm c _ _ _ _ _ _ => some c
  | .tstRegReg c _ _ _ _ _ _ => some c
  | .teqImm c _ _ _ _ _ => some c
  | .teqRegImm c _ _ _ _ _ _ => some c
  | .teqRegReg c _ _ _ _ _ _ => some c
  | .cmpImm c _ _ _ _ _ => some c
  | .cmpRegImm c _ _ _ _ _ _ => some c
  | .cmpRegReg c _ _ _ _ _ _ => some c
  | .cmnImm c _ _ _ _ _ => some c
  | .cmnRegImm c _ _ _ _ _ _ => some c
  | .cmnRegReg c _ _ _ _ _ _ => some c
  | .orrImm c _ _ _ _ _ => some c
  | .orrRegImm c _ _ _ _ _ _ => some c
  | .orrRegReg c _ _ _ _ _ _ => some c
  | .movImm c _ _ _ _ _ => some c
  | .movRegImm c _ _ _ _ _ _ => some c
  | .movRegReg c _ _ _ _ _ _ => some c
  | .bicImm c _ _ _ _ _ => some c
  | .bicRegImm c _ _ _ _ _ _ => some c
  | .bicRegReg c _ _ _ _ _ _ => some c
  | .mvnImm c _ _ _ _ _ => some c
  | .mvnRegImm c _ _ _ _ _ _ => some c
  | .mvnRegReg c _ _ _ _ _ _ => some c
  | .ldrImm c _ _ _ _ _ _ => some c
  | .ldrReg c _ _ _ _ _ _ _ _ => some c
  | .ldrbImm c _ _ _ _ _ _ => some c
  | .ldrbReg c _ _ _ _ _ _ _ _ => some c
  | .strImm c _ _ _ _ _ _ => some c
  | .strReg c _ _ _ _ _ _ _ _ => some c
  | .strbImm c _ _ _ _ _ _ => some c
  | .strbReg c _ _ _ _ _ _ _ _ => some c
  | .ldm c _ _ _ _ _ _ => some c
  | .stm c _ _ _ _ _ _ => some c
  | _ => none

/-! ### The operands of the transfer families -/

/-- Whether a transfer loads or stores, and how. -/
inductive Access where
  | load (k : LoadKind)
  | store (w : Width)
  deriving DecidableEq, Repr

/-- The cost of an access (R258, R492). -/
def Access.cost (a : Access) (c : Cost) : Nat :=
  match a with
  | .load .word => c.ldr
  | .load .byte => c.ldrb
  | .load .half => c.ldrh
  | .load .signedByte => c.ldrsb
  | .load .signedHalf => c.ldrsh
  | .store .word => c.str
  | .store .byte => c.strb
  | .store .half => c.strh

/-- A wide single transfer: its condition, its access, its addressing bits, its registers and its offset (R251, R252, R263). -/
structure Single where
  c : Cond
  acc : Access
  p : Bool
  u : Bool
  w : Bool
  rn : Reg
  rd : Reg
  off : Word
  deriving DecidableEq, Repr

/-- The wide single transfers (R259 to R261, R264 to R267). -/
def singleOf (i : Instr) (s : State) : Option Single :=
  match i with
  | .ldrImm c p u w rn rd offset => some ⟨c, .load .word, p, u, w, rn, rd, zext offset⟩
  | .ldrReg c p u w rn rd amount ty rm => some ⟨c, .load .word, p, u, w, rn, rd, s.shiftedOffset amount ty rm⟩
  | .ldrbImm c p u w rn rd offset => some ⟨c, .load .byte, p, u, w, rn, rd, zext offset⟩
  | .ldrbReg c p u w rn rd amount ty rm => some ⟨c, .load .byte, p, u, w, rn, rd, s.shiftedOffset amount ty rm⟩
  | .strImm c p u w rn rd offset => some ⟨c, .store .word, p, u, w, rn, rd, zext offset⟩
  | .strReg c p u w rn rd amount ty rm => some ⟨c, .store .word, p, u, w, rn, rd, s.shiftedOffset amount ty rm⟩
  | .strbImm c p u w rn rd offset => some ⟨c, .store .byte, p, u, w, rn, rd, zext offset⟩
  | .strbReg c p u w rn rd amount ty rm => some ⟨c, .store .byte, p, u, w, rn, rd, s.shiftedOffset amount ty rm⟩
  | .ldrhImm c p u w rn rd offset => some ⟨c, .load .half, p, u, w, rn, rd, zext offset⟩
  | .ldrhReg c p u w rn rd rm => some ⟨c, .load .half, p, u, w, rn, rd, s.rdOp .wide rm⟩
  | .ldrsbImm c p u w rn rd offset => some ⟨c, .load .signedByte, p, u, w, rn, rd, zext offset⟩
  | .ldrsbReg c p u w rn rd rm => some ⟨c, .load .signedByte, p, u, w, rn, rd, s.rdOp .wide rm⟩
  | .ldrshImm c p u w rn rd offset => some ⟨c, .load .signedHalf, p, u, w, rn, rd, zext offset⟩
  | .ldrshReg c p u w rn rd rm => some ⟨c, .load .signedHalf, p, u, w, rn, rd, s.rdOp .wide rm⟩
  | .strhImm c p u w rn rd offset => some ⟨c, .store .half, p, u, w, rn, rd, zext offset⟩
  | .strhReg c p u w rn rd rm => some ⟨c, .store .half, p, u, w, rn, rd, s.rdOp .wide rm⟩
  | _ => none

/-- The base of a wide single transfer (R251). -/
def Single.base (x : Single) (s : State) : Word := s.rdOp .wide x.rn

/-- The updated address (R251). -/
def Single.ea (x : Single) (s : State) : Word := if x.u then x.base s + x.off else x.base s - x.off

/-- The address accessed (R251). -/
def Single.addr (x : Single) (s : State) : Word := if x.p then x.ea s else x.base s

/-- Whether the base is written back (R251). -/
def Single.wb (x : Single) : Bool := !x.p || x.w

/-- A narrow single transfer: its access, its register and its address. -/
structure NarrowSingle where
  acc : Access
  rd : LowReg
  addr : Word
  deriving DecidableEq, Repr

/-- The narrow single transfers (R350 to R363, R371 to R374). -/
def narrowSingleOf (i : Instr) (s : State) : Option NarrowSingle :=
  match i with
  | .tLdrPc rd word8 => some ⟨.load .word, rd, ((s.pc + 4) &&& ~~~ 2#32) + 4 * zext word8⟩
  | .tStrReg ro rb rd => some ⟨.store .word, rd, s.reg rb.toReg + s.reg ro.toReg⟩
  | .tStrbReg ro rb rd => some ⟨.store .byte, rd, s.reg rb.toReg + s.reg ro.toReg⟩
  | .tLdrReg ro rb rd => some ⟨.load .word, rd, s.reg rb.toReg + s.reg ro.toReg⟩
  | .tLdrbReg ro rb rd => some ⟨.load .byte, rd, s.reg rb.toReg + s.reg ro.toReg⟩
  | .tStrhReg ro rb rd => some ⟨.store .half, rd, s.reg rb.toReg + s.reg ro.toReg⟩
  | .tLdsbReg ro rb rd => some ⟨.load .signedByte, rd, s.reg rb.toReg + s.reg ro.toReg⟩
  | .tLdrhReg ro rb rd => some ⟨.load .half, rd, s.reg rb.toReg + s.reg ro.toReg⟩
  | .tLdshReg ro rb rd => some ⟨.load .signedHalf, rd, s.reg rb.toReg + s.reg ro.toReg⟩
  | .tStrImm offset5 rb rd => some ⟨.store .word, rd, s.reg rb.toReg + 4 * zext offset5⟩
  | .tLdrImm offset5 rb rd => some ⟨.load .word, rd, s.reg rb.toReg + 4 * zext offset5⟩
  | .tStrbImm offset5 rb rd => some ⟨.store .byte, rd, s.reg rb.toReg + zext offset5⟩
  | .tLdrbImm offset5 rb rd => some ⟨.load .byte, rd, s.reg rb.toReg + zext offset5⟩
  | .tStrhImm offset5 rb rd => some ⟨.store .half, rd, s.reg rb.toReg + 2 * zext offset5⟩
  | .tLdrhImm offset5 rb rd => some ⟨.load .half, rd, s.reg rb.toReg + 2 * zext offset5⟩
  | .tStrSp rd word8 => some ⟨.store .word, rd, s.reg 13 + 4 * zext word8⟩
  | .tLdrSp rd word8 => some ⟨.load .word, rd, s.reg 13 + 4 * zext word8⟩
  | _ => none

/-- A block transfer of either form (R281 to R289, R381): `store` whether it stores, `p`, `u`, `sb` and `w` the bits of R113, `rn`
the base and `list` the sixteen-register list. -/
structure Block where
  f : Form
  store : Bool
  p : Bool
  u : Bool
  sb : Bool
  w : Bool
  rn : Reg
  list : BitVec 16
  deriving DecidableEq, Repr

/-- The block transfers and their conditions; the narrow ones always execute (R284, R285, R382 to R386). -/
def blockOf : Instr → Option (Cond × Block)
  | .ldm c p u sb w rn list => some (c, ⟨.wide, false, p, u, sb, w, rn, list⟩)
  | .stm c p u sb w rn list => some (c, ⟨.wide, true, p, u, sb, w, rn, list⟩)
  | .tPush lr list => some (.al, ⟨.narrow, true, true, false, false, true, 13, list.setWidth 16 ||| putBit 16 14 lr⟩)
  | .tPop list => some (.al, ⟨.narrow, false, false, true, false, true, 13, list.setWidth 16⟩)
  | .tPopPc list => some (.al, ⟨.narrow, false, false, true, false, true, 13, list.setWidth 16 ||| 0x8000#16⟩)
  | .tStmia rb list => some (.al, ⟨.narrow, true, false, true, false, true, rb.toReg, list.setWidth 16⟩)
  | .tLdmia rb list =>
    some (.al, ⟨.narrow, false, false, true, false, !list.getLsbD rb.val, rb.toReg, list.setWidth 16⟩)
  | _ => none

/-- How many registers of a list have a number below `i` (R281: the place of register `i` in the transfer). -/
def rankIn (list : BitVec 16) (i : Nat) : Nat := (List.range i).countP (fun j => list.getLsbD j)

/-- The number of registers transferred (R281). -/
def Block.n (x : Block) : Nat := rankIn x.list 16

/-- `start` (R282). -/
def Block.start (x : Block) (s : State) : Word :=
  match x.p, x.u with
  | false, true => s.reg x.rn
  | true, true => s.reg x.rn + 4
  | false, false => s.reg x.rn - BitVec.ofNat 32 (4 * x.n) + 4
  | true, false => s.reg x.rn - BitVec.ofNat 32 (4 * x.n)

/-- `final` (R282). -/
def Block.final (x : Block) (s : State) : Word :=
  if x.u then s.reg x.rn + BitVec.ofNat 32 (4 * x.n) else s.reg x.rn - BitVec.ofNat 32 (4 * x.n)

/-- The address of the word of register `i` (R281). -/
def Block.slot (x : Block) (s : State) (i : Reg) : Word := x.start s + BitVec.ofNat 32 (4 * rankIn x.list i.val)

/-- The transfer moves the registers of the user bank (R287). -/
def Block.user (x : Block) : Bool := x.sb && (x.store || !x.list.getLsbD 15)

/-- The physical register that number `i` of the list stands for (R24, R287). -/
def Block.phys (x : Block) (s : State) (i : Reg) : PhysReg := physOf (if x.user then Mode.usr.bits else s.cpsr.m) i

/-- The combinations that R289 (with R385, R386) refuses. -/
def Block.refused (x : Block) : Bool :=
  x.list == 0 || x.rn == 15 || (x.user && x.w) ||
    (x.w && x.list.getLsbD x.rn.val && !(x.store && rankIn x.list x.rn.val == 0))

/-! ### The arithmetic of the data-processing operations -/

/-- The exact result of an arithmetic operation, for a reading `x` of its first operand, a reading `y` of its second and the carry
`c` as 0 or 1 (R190 to R195, R198, R199); the logical operations have none. -/
def exactArith (op : AluOp) (x y c : Int) : Option Int :=
  match op with
  | .sub => some (x - y)
  | .cmp => some (x - y)
  | .rsb => some (y - x)
  | .add => some (x + y)
  | .cmn => some (x + y)
  | .adc => some (x + y + c)
  | .sbc => some (x - y - (1 - c))
  | .rsc => some (y - x - (1 - c))
  | _ => none

/-- The operations whose carry is NOT-borrow (R181). -/
def subtracts : AluOp → Bool
  | .sub => true
  | .cmp => true
  | .rsb => true
  | .sbc => true
  | .rsc => true
  | _ => false

/-- What a logical operation makes of one bit of each operand (R188, R189, R196, R197, R200 to R203); the arithmetic operations have
none. -/
def logicBit (op : AluOp) (x y : Bool) : Option Bool :=
  match op with
  | .and => some (x && y)
  | .tst => some (x && y)
  | .eor => some (x ^^ y)
  | .teq => some (x ^^ y)
  | .orr => some (x || y)
  | .mov => some y
  | .bic => some (x && !y)
  | .mvn => some (!y)
  | _ => none

/-! ### The long multiplies and format 5 -/

/-- The four long multiplies by their U and A bits (R107). -/
def longMultiplyOf (sgn acc : Bool) (c : Cond) (sb : Bool) (rdHi rdLo rs rm : Reg) : Instr :=
  match sgn, acc with
  | false, false => .umull c sb rdHi rdLo rs rm
  | false, true => .umlal c sb rdHi rdLo rs rm
  | true, false => .smull c sb rdHi rdLo rs rm
  | true, true => .smlal c sb rdHi rdLo rs rm

/-- Their costs (R215, R492). -/
def longMultiplyCost (sgn acc : Bool) (c : Cost) : Nat :=
  match sgn, acc with
  | false, false => c.umull
  | false, true => c.umlal
  | true, false => c.smull
  | true, true => c.smlal

/-- ADD, CMP and MOV of format 5 with the source and the destination number that their H bits give (R345 to R348). -/
def highOf : Instr → Option (AluOp × Reg × Reg)
  | .tAddHiH1 rs rd => some (.add, rs, rd.toHigh)
  | .tAddHiH2 rs rd => some (.add, rs.toHigh, rd.toReg)
  | .tCmpHiH1 rs rd => some (.cmp, rs, rd.toHigh)
  | .tCmpHiH2 rs rd => some (.cmp, rs.toHigh, rd.toReg)
  | .tMovHiH1 rs rd => some (.mov, rs, rd.toHigh)
  | .tMovHiH2 rs rd => some (.mov, rs.toHigh, rd.toReg)
  | _ => none

/-! ### Narrow instructions and their wide counterparts -/

/-- The wide instruction that does the same as a narrow one of formats 1 to 4, 12 (from sp) and 13, on the same operands (R312: "the
wide instruction with the same effect"). -/
def wideTwin : Instr → Option Instr
  | .tLslImm n rs rd => some (.movRegImm .al true 0 rd.toReg n .lsl rs.toReg)
  | .tLsrImm n rs rd => some (.movRegImm .al true 0 rd.toReg n .lsr rs.toReg)
  | .tAsrImm n rs rd => some (.movRegImm .al true 0 rd.toReg n .asr rs.toReg)
  | .tAddReg rn rs rd => some (.addRegImm .al true rs.toReg rd.toReg 0 .lsl rn.toReg)
  | .tSubReg rn rs rd => some (.subRegImm .al true rs.toReg rd.toReg 0 .lsl rn.toReg)
  | .tAddImm3 imm3 rs rd => some (.addImm .al true rs.toReg rd.toReg 0 (imm3.setWidth 8))
  | .tSubImm3 imm3 rs rd => some (.subImm .al true rs.toReg rd.toReg 0 (imm3.setWidth 8))
  | .tMovImm rd imm8 => some (.movImm .al true 0 rd.toReg 0 imm8)
  | .tCmpImm rd imm8 => some (.cmpImm .al true rd.toReg 0 0 imm8)
  | .tAddImm8 rd imm8 => some (.addImm .al true rd.toReg rd.toReg 0 imm8)
  | .tSubImm8 rd imm8 => some (.subImm .al true rd.toReg rd.toReg 0 imm8)
  | .tAnd rs rd => some (.andRegImm .al true rd.toReg rd.toReg 0 .lsl rs.toReg)
  | .tEor rs rd => some (.eorRegImm .al true rd.toReg rd.toReg 0 .lsl rs.toReg)
  | .tLsl rs rd => some (.movRegReg .al true 0 rd.toReg rs.toReg .lsl rd.toReg)
  | .tLsr rs rd => some (.movRegReg .al true 0 rd.toReg rs.toReg .lsr rd.toReg)
  | .tAsr rs rd => some (.movRegReg .al true 0 rd.toReg rs.toReg .asr rd.toReg)
  | .tAdc rs rd => some (.adcRegImm .al true rd.toReg rd.toReg 0 .lsl rs.toReg)
  | .tSbc rs rd => some (.sbcRegImm .al true rd.toReg rd.toReg 0 .lsl rs.toReg)
  | .tRor rs rd => some (.movRegReg .al true 0 rd.toReg rs.toReg .ror rd.toReg)
  | .tTst rs rd => some (.tstRegImm .al true rd.toReg 0 0 .lsl rs.toReg)
  | .tNeg rs rd => some (.rsbImm .al true rs.toReg rd.toReg 0 0)
  | .tCmp rs rd => some (.cmpRegImm .al true rd.toReg 0 0 .lsl rs.toReg)
  | .tCmn rs rd => some (.cmnRegImm .al true rd.toReg 0 0 .lsl rs.toReg)
  | .tOrr rs rd => some (.orrRegImm .al true rd.toReg rd.toReg 0 .lsl rs.toReg)
  | .tMul rs rd => some (.mul .al true rd.toReg 0 rs.toReg rd.toReg)
  | .tBic rs rd => some (.bicRegImm .al true rd.toReg rd.toReg 0 .lsl rs.toReg)
  | .tMvn rs rd => some (.mvnRegImm .al true 0 rd.toReg 0 .lsl rs.toReg)
  | .tAddSp rd word8 => some (.addImm .al false 13 rd.toReg 15 word8)
  | .tAddSpImm sword7 => some (.addImm .al false 13 13 15 (sword7.setWidth 8))
  | .tSubSpImm sword7 => some (.subImm .al false 13 13 15 (sword7.setWidth 8))
  | _ => none

end Sys2Proof.Machine
end

