-- ==== Sys2Proof/Certificates/Slice0/Obligations.lean ====
section
/-! DEFINITION. The statements for the provers. Each docstring names the rules it rests on; the vocabulary is that of
Sys2Proof/Safety.lean. -/

open Sys2Proof Sys2Proof.Machine

/-! ### Encoding -/

/-- Words written out from the encodings of 30_encoding.md decode to the instructions they stand for: one of each wide family and
of several narrow formats. -/
def Obligations.DecodeWords : Prop :=
  decode (.wide 0xEF123456#32) = .swi .al 0x123456#24 ∧
  decode (.wide 0xE12FFF1E#32) = .bx .al 14 ∧
  decode (.wide 0x1AFFFFFC#32) = .b .ne 0xFFFFFC#24 ∧
  decode (.wide 0xE0203291#32) = .mla .al false 0 3 2 1 ∧
  decode (.wide 0xE0F10392#32) = .smlal .al true 1 0 3 2 ∧
  decode (.wide 0xE1420091#32) = .swpb .al 2 0 1 ∧
  decode (.wide 0xE1D100B2#32) = .ldrhImm .al true true false 1 0 2#8 ∧
  decode (.wide 0xE1910202#32) = .orrRegImm .al true 1 0 4#5 .lsl 2 ∧
  decode (.wide 0xE4B10004#32) = .ldrImm .al false true true 1 0 4#12 ∧
  decode (.wide 0xE92D4006#32) = .stm .al true false false true 13 0x4006#16 ∧
  decode (.narrow 0x1DC8#16) = .tAddImm3 7#3 1 0 ∧
  decode (.narrow 0x46F7#16) = .tMovHiH1 14 7 ∧
  decode (.narrow 0xB501#16) = .tPush true 1#8 ∧
  decode (.narrow 0xDB80#16) = .tBCond .lt 0x80#8 ∧
  decode (.narrow 0xFFFF#16) = .tBlSecond 0x7FF#11

/-- No bit of an encoding is dropped: decoding the encoding of a well-formed instruction gives it back, for every instruction and
every value of its fields. -/
def Obligations.DecodeOfEncode : Prop := ∀ i : Instr, i.wellFormed = true → decode (encode i) = i

/-- Each word has one meaning: what a word or a halfword decodes to is well-formed and encodes to the word again (R101). -/
def Obligations.EncodeOfDecode : Prop := ∀ w : CodeWord, (decode w).wellFormed = true ∧ encode (decode w) = w

/-- The wide words that are NotRecognized are exactly those of the four cases of R116, and the halfwords exactly those of R131, with the
cases of R123. -/
def Obligations.NotRecognizedWords : Prop :=
  (∀ w : Word, (decodeWide w).category = none ↔
    ((w.extractLsb' 25 3 = 0b110#3 ∨ w.extractLsb' 24 4 = 0b1110#4) ∨
      (w.extractLsb' 25 3 = 0b011#3 ∧ w.getLsbD 4 = true) ∨
      (w.extractLsb' 25 3 = 0b000#3 ∧ w.extractLsb' 4 4 = 0b1001#4 ∧
        (w.extractLsb' 22 6 = 0b000001#6 ∨
          (w.extractLsb' 23 5 = 0b00010#5 ∧ (w.extractLsb' 20 2 ≠ 0b00#2 ∨ w.extractLsb' 8 4 ≠ 0b0000#4)) ∨
          w.extractLsb' 23 5 = 0b00011#5)) ∨
      (w.extractLsb' 25 3 = 0b000#3 ∧ w.getLsbD 7 = true ∧ w.getLsbD 4 = true ∧ w.extractLsb' 5 2 ≠ 0b00#2 ∧
        ((w.getLsbD 20 = false ∧ w.extractLsb' 5 2 ≠ 0b01#2) ∨ (w.getLsbD 22 = false ∧ w.extractLsb' 8 4 ≠ 0b0000#4))))) ∧
  ∀ h : Half, (decodeNarrow h).category = none ↔
    (h &&& 0xF800#16 = 0xE800#16 ∨ h &&& 0xFF00#16 = 0xDE00#16 ∨
      (h &&& 0xF000#16 = 0xB000#16 ∧
        (h.extractLsb' 8 4).toNat ∈ [1, 2, 3, 6, 7, 8, 9, 10, 11, 14, 15]) ∨
      (h &&& 0xFC00#16 = 0x4400#16 ∧ h.extractLsb' 8 2 ≠ 0b11#2 ∧ h.extractLsb' 6 2 = 0b00#2) ∨
      (h &&& 0xFF00#16 = 0x4700#16 ∧ (h.getLsbD 7 = true ∨ h.extractLsb' 0 3 ≠ 0b000#3)))

/-! ### The step -/

/-- When no interrupt is serviceable and the core is not halted, the step is `exec` of the instruction that the fetched word decodes
to, in the state after the fetch; that state is the one before it but for what DEVICE reads draw and deliver, and is the very
same when no byte fetched belongs to a device (R140, R143 to R146). -/
def Obligations.StepRunsDecodedInstruction : Prop :=
  ∀ (s : State) (i : Instr), s.checkPending = false → s.halted = false → decode s.fetch.1 = i →
    (∀ cat, i.category = some cat → cat ∉ s.cfg.unimplemented) →
      step s = exec i s.fetch.2 ∧
        RestSameButBus s s.fetch.2 ∧ s.fetch.2.regs = s.regs ∧ s.fetch.2.pc = s.pc ∧ s.fetch.2.cpsr = s.cpsr ∧
        s.fetch.2.cycles = s.cycles ∧
        ((∀ k, k < (fetchWidth s.cpsr.t).bytes →
            s.kind (byteAddr ((fetchWidth s.cpsr.t).alignDown s.pc) k) ≠ .device) → s.fetch.2 = s)

/-- The fetch takes the bytes that lie in memory at the program counter now: a word of four in the wide form, a halfword of two in
the narrow form, lowest byte first (R64, R65, R81, R143). -/
def Obligations.FetchReadsCurrentBytes : Prop :=
  ∀ s : State, s.pcAligned → InMemory (fetchWidth s.cpsr.t).bytes s.pc s →
    s.fetch = (if s.cpsr.t then .narrow (halfAt s s.pc) else .wide (wordAt s s.pc), s)

/-- A halted core with no serviceable interrupt idles: only `CYCLES` grows, by 1 (R142). -/
def Obligations.HaltedStepIdles : Prop :=
  ∀ s : State, s.halted = true → (s.ime = false ∨ s.ie &&& s.ifr = 0) → step s = .next { s with cycles := s.cycles + 1 }

/-- A failing condition costs 1 and has no other effect than the advance of the program counter, for every wide instruction
(R151). -/
def Obligations.FailingCondition : Prop :=
  ∀ (i : Instr) (c : Cond) (s : State), condOf i = some c → s.passes c = false →
    exec i s = .next { s with pc := s.pc + 4, cycles := s.cycles + 1 }

/-- The sixteen predicates over the flags (R150). -/
def Obligations.ConditionTable : Prop :=
  ∀ (nv n z c v : Bool),
    let f : Flags := ⟨n, z, c, v⟩
    (condPass nv f .eq = true ↔ z = true) ∧ (condPass nv f .ne = true ↔ z = false) ∧
    (condPass nv f .cs = true ↔ c = true) ∧ (condPass nv f .cc = true ↔ c = false) ∧
    (condPass nv f .mi = true ↔ n = true) ∧ (condPass nv f .pl = true ↔ n = false) ∧
    (condPass nv f .vs = true ↔ v = true) ∧ (condPass nv f .vc = true ↔ v = false) ∧
    (condPass nv f .hi = true ↔ (c = true ∧ z = false)) ∧ (condPass nv f .ls = true ↔ (c = false ∨ z = true)) ∧
    (condPass nv f .ge = true ↔ n = v) ∧ (condPass nv f .lt = true ↔ n ≠ v) ∧
    (condPass nv f .gt = true ↔ (z = false ∧ n = v)) ∧ (condPass nv f .le = true ↔ (z = true ∨ n ≠ v)) ∧
    condPass nv f .al = true ∧ condPass nv f .nv = nv

/-! ### Invariants that every step keeps -/

/-- Every step keeps the memory list in its canonical form. -/
def Obligations.StepKeepsMemoryCanonical : Prop := ∀ s t : State, s.memCanonical → step s = .next t → t.memCanonical

/-- Every step keeps the program counter aligned to the instruction width (R29, R74) and the mode one of the seven (R21). -/
def Obligations.StepKeepsPcAlignedAndModeLegal : Prop :=
  ∀ s t : State, s.pcAligned → s.modeLegal → step s = .next t → t.pcAligned ∧ t.modeLegal

/-- Every step keeps bits 27:8 of CPSR and of every SPSR at zero (R34); and only SYS, IRQ and SVC are met by a run from reset: every
step keeps CPSR and the SPSRs to these mode numbers and the reset value, so FIQ, ABT and UND stay unreachable (R461). -/
def Obligations.StepKeepsReservedClearAndModesReached : Prop :=
  ∀ s t : State, step s = .next t →
    (s.reservedClear → t.reservedClear) ∧ (s.modesReached → t.modesReached)

/-- The invariants hold right after reset. -/
def Obligations.ResetHoldsInvariants : Prop :=
  State.reset.memCanonical ∧ State.reset.pcAligned ∧ State.reset.modeLegal ∧ State.reset.reservedClear ∧
    State.reset.modesReached

/-- Every value reset leaves in the block (R50, R470), for every value of the parameters, and at the defaults of R12; `reset()`
touches neither memory nor the parameters (R474). -/
def Obligations.ResetValues : Prop :=
  (∀ s : State,
    (∀ p : PhysReg, s.applyReset.phys p = if p = .sp .usr then s.cfg.resetSp else 0) ∧
      s.applyReset.cpsr = s.cfg.resetCpsr ∧ (∀ e : ExcMode, (s.applyReset.spsr.get e).toWord = 0) ∧
      s.applyReset.ie = 0 ∧ s.applyReset.ifr = 0 ∧ s.applyReset.ime = false ∧ s.applyReset.halted = false ∧
      s.applyReset.cycles = 0 ∧ s.applyReset.mem = s.mem ∧ s.applyReset.cfg = s.cfg) ∧
  State.reset.applyReset = State.reset ∧ State.reset.cfg.resetSp = 0x03007F00#32 ∧
    State.reset.cpsr.toWord = 0x0000001F#32

/-! ### Rules about the whole machine -/

/-- No step changes a parameter, or a byte of memory outside RAM (R49, R67, R84). -/
def Obligations.OnlyRamChanges : Prop :=
  ∀ s t : State, step s = .next t →
    t.cfg = s.cfg ∧ ∀ a : Word, s.kind a ≠ .ram → t.mem.read a.toNat = s.mem.read a.toNat

/-- Every step costs at least one cycle (R148), whatever costs the parameters give, as long as they are positive. -/
def Obligations.CyclesGrow : Prop := ∀ s t : State, s.cfg.cost.wf = true → step s = .next t → s.cycles < t.cycles

/-- An SPSR is written by exception entry and by nothing else (R33): whenever a step changes one, the step serviced an interrupt or
ran a software interrupt, and the one SPSR it wrote is that of the mode entered and holds the CPSR from before. -/
def Obligations.SpsrWrittenOnlyByEntry : Prop :=
  ∀ s t : State, step s = .next t →
    t.spsr = s.spsr ∨
      ∃ e : ExcMode, t.spsr = s.spsr.set e s.cpsr ∧ t.cpsr.m = e.toMode.bits ∧
        (s.checkPending = true ∨ (∃ c x, decode s.fetch.1 = .swi c x) ∨ ∃ x, decode s.fetch.1 = .tSwi x)

/-- The writers of the mode field and of `T` in a step are entry and the CPSR restore, and for `T` also branch-exchange (R446, R31):
after a step CPSR is that of the mode entered, or the SPSR of the mode the step began in, or it has kept its mode and its
I, F and reserved bits, and `T` too unless the instruction was a branch-exchange. -/
def Obligations.StatusWriters : Prop :=
  ∀ s t : State, step s = .next t →
    (∃ e : ExcMode, t.cpsr = { s.cpsr with m := e.toMode.bits, i := true, t := false } ∧ t.spsr = s.spsr.set e s.cpsr) ∨
      (∃ e : ExcMode, s.excMode = some e ∧ t.cpsr = s.spsr.get e ∧ t.spsr = s.spsr) ∨
      (t.spsr = s.spsr ∧ t.cpsr.m = s.cpsr.m ∧ t.cpsr.i = s.cpsr.i ∧ t.cpsr.f = s.cpsr.f ∧
        t.cpsr.reserved = s.cpsr.reserved ∧
        (t.cpsr.t = s.cpsr.t ∨ (∃ c rm, decode s.fetch.1 = .bx c rm) ∨ ∃ rs, decode s.fetch.1 = .tBx rs))

/-! ### Interrupts -/

/-- Interrupt servicing (R441 with R431, R432 and R440): the lowest-numbered pending and enabled type wins, its bit alone is cleared,
the halt ends, and the entry into IRQ mode saves CPSR and `pc - 4`, sets I, clears T and goes to the vector, at cost 3; all else
is unchanged. `CPSR.I` is not consulted (R433). -/
def Obligations.InterruptServicing : Prop :=
  ∀ s : State, s.ime = true → s.ie &&& s.ifr ≠ 0 →
    ∃ (k : Fin 14) (t : State), step s = .next t ∧
      s.ie.getLsbD k.val = true ∧ s.ifr.getLsbD k.val = true ∧
      (∀ j : Nat, j < k.val → ¬ (s.ie.getLsbD j = true ∧ s.ifr.getLsbD j = true)) ∧
      (∀ j : Nat, t.ifr.getLsbD j = (s.ifr.getLsbD j && j != k.val)) ∧
      t.halted = false ∧ t.pc = s.cfg.vecIrq &&& 0xFFFFFFFC#32 ∧
      t.cpsr = { s.cpsr with m := 0b10010#5, i := true, t := false } ∧
      t.spsr = { s.spsr with irq := s.cpsr } ∧ t.phys (.lr .irq) = s.pc - 4 ∧ RegsBut [.lr .irq] s t ∧
      t.cycles = s.cycles + 3 ∧ t.ie = s.ie ∧ t.ime = s.ime ∧ t.mem = s.mem ∧ t.cfg = s.cfg ∧ t.draws = s.draws ∧
      t.bus = s.bus

/-- `requestInterrupt(k)` (R428): the pending bit is set, a request of an enabled type ends the halt whatever IME is and whether or
not the bit was pending, and nothing else changes. -/
def Obligations.RequestInterrupt : Prop :=
  ∀ (s : State) (k : Fin 14),
    (∀ j : Nat, (s.requestInterrupt k).ifr.getLsbD j = (s.ifr.getLsbD j || j == k.val)) ∧
      (s.requestInterrupt k).halted = (s.halted && !s.ie.getLsbD k.val) ∧
      s.requestInterrupt k = { s with ifr := (s.requestInterrupt k).ifr, halted := (s.requestInterrupt k).halted }

/-- Reads of the interrupt-controller registers (R423): the byte lanes, zero in the bits that do not exist, no side effect. -/
def Obligations.IntcReads : Prop :=
  ∀ (s : State) (p : Word),
    [s.cfg.addrIe, s.cfg.addrIe + 1, s.cfg.addrIf, s.cfg.addrIf + 1, s.cfg.addrIme, s.cfg.addrIme + 1, s.cfg.addrIme + 2,
      s.cfg.addrIme + 3, s.cfg.addrHaltcnt].Nodup →
    s.kind p = .intc →
      (s.byteRead p).2 = s ∧
      (p = s.cfg.addrIe → ∀ j : Nat, j < 8 → (s.byteRead p).1.getLsbD j = s.ie.getLsbD j) ∧
      (p = s.cfg.addrIe + 1 → ∀ j : Nat, j < 8 → (s.byteRead p).1.getLsbD j = s.ie.getLsbD (8 + j)) ∧
      (p = s.cfg.addrIf → ∀ j : Nat, j < 8 → (s.byteRead p).1.getLsbD j = s.ifr.getLsbD j) ∧
      (p = s.cfg.addrIf + 1 → ∀ j : Nat, j < 8 → (s.byteRead p).1.getLsbD j = s.ifr.getLsbD (8 + j)) ∧
      (p = s.cfg.addrIme → (s.byteRead p).1 = if s.ime then 1#8 else 0#8) ∧
      (p ∈ [s.cfg.addrIme + 1, s.cfg.addrIme + 2, s.cfg.addrIme + 3, s.cfg.addrHaltcnt] → (s.byteRead p).1 = 0#8)

/-- Writes of the interrupt-controller registers (R424 to R427): IE takes the byte, IF loses the bits written as 1, IME takes bit 0,
and a halt-control write with its top bit clear halts; each changes only its own register, and only its own lane. -/
def Obligations.IntcWrites : Prop :=
  ∀ (s : State) (p : Word) (b : Byte),
    [s.cfg.addrIe, s.cfg.addrIe + 1, s.cfg.addrIf, s.cfg.addrIf + 1, s.cfg.addrIme, s.cfg.addrIme + 1, s.cfg.addrIme + 2,
      s.cfg.addrIme + 3, s.cfg.addrHaltcnt].Nodup →
    s.kind p = .intc →
      (p = s.cfg.addrIe → s.byteWrite p b = { s with ie := (s.byteWrite p b).ie } ∧
        ∀ j : Nat, j < 14 → (s.byteWrite p b).ie.getLsbD j = if j < 8 then b.getLsbD j else s.ie.getLsbD j) ∧
      (p = s.cfg.addrIe + 1 → s.byteWrite p b = { s with ie := (s.byteWrite p b).ie } ∧
        ∀ j : Nat, j < 14 → (s.byteWrite p b).ie.getLsbD j = if j < 8 then s.ie.getLsbD j else b.getLsbD (j - 8)) ∧
      (p = s.cfg.addrIf → s.byteWrite p b = { s with ifr := (s.byteWrite p b).ifr } ∧
        ∀ j : Nat, j < 14 →
          (s.byteWrite p b).ifr.getLsbD j = if j < 8 then s.ifr.getLsbD j && !b.getLsbD j else s.ifr.getLsbD j) ∧
      (p = s.cfg.addrIf + 1 → s.byteWrite p b = { s with ifr := (s.byteWrite p b).ifr } ∧
        ∀ j : Nat, j < 14 →
          (s.byteWrite p b).ifr.getLsbD j = if j < 8 then s.ifr.getLsbD j else s.ifr.getLsbD j && !b.getLsbD (j - 8)) ∧
      (p = s.cfg.addrIme → s.byteWrite p b = { s with ime := b.getLsbD 0 }) ∧
      (p = s.cfg.addrHaltcnt → s.byteWrite p b = if b.getLsbD 7 then s else { s with halted := true }) ∧
      (p ∈ [s.cfg.addrIme + 1, s.cfg.addrIme + 2, s.cfg.addrIme + 3] → s.byteWrite p b = s)

/-- The return forms of R450 resume where the exception was taken, in the interrupted state: after an interrupt `ADDS pc, lr, #4`
resumes at the instruction not yet executed, after a wide SWI `ADDS pc, lr, #8` and after a narrow SWI `ADDS pc, lr, #6` at the
next instruction; CPSR is what it was, and of the registers only the r14 of the mode entered has changed. -/
def Obligations.ReturnResumes : Prop :=
  ∀ s : State, s.pcAligned → s.modeLegal →
    (s.checkPending = true → ∃ t u, step s = .next t ∧ exec (.addImm .al true 14 15 0 4) t = .next u ∧
      u.pc = s.pc ∧ u.cpsr = s.cpsr ∧ RegsBut [.lr .irq] s u) ∧
    (∀ c x, s.cpsr.t = false → s.passes c = true →
      ∃ t u, exec (.swi c x) s = .next t ∧ exec (.addImm .al true 14 15 0 8) t = .next u ∧
        u.pc = s.pc + 4 ∧ u.cpsr = s.cpsr ∧ RegsBut [.lr (swiTarget s.cfg.swiMode).toMode.bank] s u) ∧
    (∀ x, s.cpsr.t = true →
      ∃ t u, exec (.tSwi x) s = .next t ∧ exec (.addImm .al true 14 15 0 6) t = .next u ∧
        u.pc = s.pc + 2 ∧ u.cpsr = s.cpsr ∧ RegsBut [.lr (swiTarget s.cfg.swiMode).toMode.bank] s u)

/-! ### Registers and memory -/

/-- Two physical registers never share storage (R23): a write is read back, r15 masked (R29), and changes no other register and
nothing else of the state. -/
def Obligations.PhysicalRegistersSeparate : Prop :=
  ∀ (s : State) (p : PhysReg) (v : Word),
    (s.setPhys p v).phys p = (if p = .pc then alignPc s.cpsr.t v else v) ∧
      (∀ q : PhysReg, q ≠ p → (s.setPhys p v).phys q = s.phys q) ∧
      s.setPhys p v = { s with regs := (s.setPhys p v).regs, pc := (s.setPhys p v).pc }

/-- The active view (R24): under two modes two numbers reach the same physical register exactly when they are the same number and it
is r0 to r7 or r15, or r8 to r12 with both or neither mode FIQ, or r13 or r14 with the modes in one bank; and every physical
register is reached. -/
def Obligations.ActiveView : Prop :=
  (∀ (m1 m2 : Mode) (i j : Reg), physOf m1.bits i = physOf m2.bits j ↔
    (i = j ∧ (i.val < 8 ∨ i = 15 ∨ (8 ≤ i.val ∧ i.val ≤ 12 ∧ (m1 = .fiq ↔ m2 = .fiq)) ∨
      ((i = 13 ∨ i = 14) ∧ m1.bank = m2.bank)))) ∧
    ∀ p : PhysReg, ∃ (m : Mode) (i : Reg), physOf m.bits i = p

/-- An access of 1, 2 or 4 bytes is its byte accesses in ascending order, each in the state the one before it left and each routed to
its own region, whatever the kinds of the bytes: byte `k`, at the aligned address plus `k`, carries bits `8k+7 : 8k` of the
value (R62, R63, R65, R71). So a store to RAM is read back at its width, lowest byte first, and changes nothing but the bytes
it names (R78). -/
def Obligations.StoreThenLoad : Prop :=
  (∀ (s : State) (w : Width) (a v : Word),
    s.memWrite w a v = (List.range w.bytes).foldl
      (fun u k => u.byteWrite (byteAddr (w.alignDown a) k) ((v >>> (8 * k)).setWidth 8)) s ∧
    ∃ (b : Nat → Byte) (u : Nat → State), u 0 = s ∧
      (∀ k, k < w.bytes → (u k).byteRead (byteAddr (w.alignDown a) k) = (b k, u (k + 1))) ∧
      (s.memRead w a).2 = u w.bytes ∧
      ∀ j, j < 32 → (s.memRead w a).1.getLsbD j = (decide (j < 8 * w.bytes) && (b (j / 8)).getLsbD (j % 8))) ∧
  ∀ (s : State) (w : Width) (a v : Word), s.memCanonical → w.aligned a = true →
    (∀ k, k < w.bytes → s.kind (byteAddr a k) = .ram) →
      let t := s.memWrite w a v
      t = { s with mem := t.mem } ∧ BytesStored w.bytes a v s t ∧
        t.memRead w a = ((match w with
          | .byte => v &&& 0x000000FF#32
          | .half => v &&& 0x0000FFFF#32
          | .word => v), t)

/-- An aligned load is the access at its width, zero- or sign-extended, in a region of any kind and under every policy (R62, R269). What
loads and block loads make of the bytes in memory (R62, R65, R269, R281): little-endian, extended, consecutive words in
ascending order, no side effect. -/
def Obligations.LoadedValue : Prop :=
  (∀ (s : State) (k : LoadKind) (a : Word), k.width.aligned a = true →
    let r := s.memRead k.width a
    s.load k a = ((match k with
      | .word => r.1
      | .byte => r.1
      | .half => r.1
      | .signedByte => (r.1.setWidth 8).signExtend 32
      | .signedHalf => (r.1.setWidth 16).signExtend 32), r.2)) ∧
  (∀ (s : State) (k : LoadKind) (a : Word), k.width.aligned a = true → InMemory k.width.bytes a s →
    s.load k a = ((match k with
      | .word => wordAt s a
      | .byte => (s.mem.read (byteAddr a 0).toNat).setWidth 32
      | .half => (halfAt s a).setWidth 32
      | .signedByte => (s.mem.read (byteAddr a 0).toNat).signExtend 32
      | .signedHalf => (halfAt s a).signExtend 32), s)) ∧
  ∀ (s : State) (a : Word) (n j : Nat), Width.word.aligned a = true → n ≤ 16 → InMemory (4 * n) a s → j < n →
    (s.readWords a n).1.getD j 0 = wordAt s (byteAddr a (4 * j)) ∧ (s.readWords a n).2 = s

/-- Misaligned accesses under the policies `force_align` and `rotate` (R73): stores, loads of each kind, and runs of words, which a
block transfer reads and writes from `start & ~3`, word by word in ascending order and never rotated (R283). -/
def Obligations.MisalignedPolicies : Prop :=
  ∀ (s : State) (a v : Word),
    (∀ w : Width, s.memWrite w a v = s.memWrite w (w.alignDown a) v) ∧
    (∀ n : Nat, s.readWords a n = s.readWords (a &&& ~~~ 3#32) n ∧ (s.readWords a n).1.length = n ∧
      ∃ u : Nat → State, u 0 = s ∧ (s.readWords a n).2 = u n ∧
        ∀ j, j < n → (u j).memRead .word (byteAddr (a &&& ~~~ 3#32) (4 * j)) = ((s.readWords a n).1.getD j 0, u (j + 1))) ∧
    (∀ vs : List Word, s.writeWords a vs = s.writeWords (a &&& ~~~ 3#32) vs ∧
      s.writeWords a vs = (List.range vs.length).foldl
        (fun u j => u.memWrite .word (byteAddr (a &&& ~~~ 3#32) (4 * j)) (vs.getD j 0)) s) ∧
    (s.cfg.misalign = .forceAlign → ∀ k : LoadKind, s.load k a = s.load k (k.width.alignDown a)) ∧
    (s.cfg.misalign = .rotate →
      s.load .word a = ((s.memRead .word (a &&& ~~~ 3#32)).1.rotateRight (8 * (a.toNat % 4)),
        (s.memRead .word (a &&& ~~~ 3#32)).2) ∧
      (a.getLsbD 0 = true → s.load .half a = ((s.memRead .half (a &&& ~~~ 1#32)).1.rotateRight 8,
        (s.memRead .half (a &&& ~~~ 1#32)).2)) ∧
      (a.getLsbD 0 = true → s.load .signedHalf a = s.load .signedByte a))

/-- Reads and writes of ROM, of the open regions and of unowned addresses (R62, R63, R68): fixed content, 0xFF, 0x00; writes are
dropped. -/
def Obligations.DroppedWritesAndOpenReads : Prop :=
  ∀ (s : State) (p : Word) (b : Byte),
    (s.kind p = .rom → s.byteRead p = (s.mem.read p.toNat, s) ∧ s.byteWrite p b = s) ∧
    (s.kind p = .open1 → s.byteRead p = (0xFF#8, s) ∧ s.byteWrite p b = s) ∧
    (s.kind p = .open0 → s.byteRead p = (0x00#8, s) ∧ s.byteWrite p b = s) ∧
    ((∀ r ∈ s.cfg.memMap, ¬ (r.lo ≤ p.toNat ∧ p.toNat ≤ r.hi)) → s.kind p = .open0)

/-! ### The shifter and the arithmetic -/

/-- The immediate operand (R161): bit `j` of the result is bit `j + 2 rotate` of the zero-extended byte, taken round. -/
def Obligations.ImmediateOperand : Prop :=
  ∀ (rotate : BitVec 4) (imm8 : BitVec 8) (c : Bool),
    (∀ j : Nat, j < 32 →
      (immOperand rotate imm8 c).op2.getLsbD j = imm8.getLsbD ((j + 2 * rotate.toNat) % 32)) ∧
    (immOperand rotate imm8 c).shc = if rotate = 0 then c else (immOperand rotate imm8 c).op2.getLsbD 31

/-- Shifts by an immediate amount (R162 to R166), the special amount 0 included. -/
def Obligations.ShiftByImmediate : Prop :=
  ∀ (n : BitVec 5) (v : Word) (c : Bool),
    let k := n.toNat
    (shiftImm .lsl n v c).op2.toNat = v.toNat * 2 ^ k % 2 ^ 32 ∧
    (shiftImm .lsl n v c).shc = (if k = 0 then c else v.getLsbD (32 - k)) ∧
    (shiftImm .lsr n v c).op2.toNat = (if k = 0 then 0 else v.toNat / 2 ^ k) ∧
    (shiftImm .lsr n v c).shc = (if k = 0 then v.getLsbD 31 else v.getLsbD (k - 1)) ∧
    (shiftImm .asr n v c).op2.toInt = v.toInt / 2 ^ (if k = 0 then 32 else k) ∧
    (shiftImm .asr n v c).shc = (if k = 0 then v.getLsbD 31 else v.getLsbD (k - 1)) ∧
    (∀ j : Nat, j < 32 → (shiftImm .ror n v c).op2.getLsbD j =
      if k = 0 then (if j = 31 then c else v.getLsbD (j + 1)) else v.getLsbD ((j + k) % 32)) ∧
    (shiftImm .ror n v c).shc = (if k = 0 then v.getLsbD 0 else v.getLsbD (k - 1))

/-- Shifts by a register-held amount (R167 to R171). -/
def Obligations.ShiftByRegister : Prop :=
  ∀ (ty : ShiftType) (n : BitVec 8) (v : Word) (c : Bool),
    let k := n.toNat
    let x := shiftReg ty n v c
    (k = 0 → x.op2 = v ∧ x.shc = c) ∧
    (k ≠ 0 →
      (ty = .lsl → x.op2.toNat = v.toNat * 2 ^ k % 2 ^ 32 ∧ x.shc = (k ≤ 32 && v.getLsbD (32 - k))) ∧
      (ty = .lsr → x.op2.toNat = v.toNat / 2 ^ k ∧ x.shc = v.getLsbD (k - 1)) ∧
      (ty = .asr → x.op2.toInt = v.toInt / 2 ^ k ∧ x.shc = v.getLsbD (min k 32 - 1)) ∧
      (ty = .ror → (∀ j : Nat, j < 32 → x.op2.getLsbD j = v.getLsbD ((j + k) % 32)) ∧
        x.shc = v.getLsbD ((k + 31) % 32)))

/-- The arithmetic operations (R181, with R187, R190 to R195, R198 and R199): the result is the exact one modulo 2^32; C is
NOT-borrow for the subtracting ones and the carry for the adding ones, V the signed overflow. -/
def Obligations.ArithmeticResults : Prop :=
  ∀ (op : AluOp) (a b : Word) (shc : Bool) (old : Flags) (x y : Int),
    exactArith op a.toNat b.toNat (if old.c then 1 else 0) = some x →
    exactArith op a.toInt b.toInt (if old.c then 1 else 0) = some y →
      aluResult op a b shc old = (BitVec.ofInt 32 x,
        { n := (BitVec.ofInt 32 x).getLsbD 31
          z := decide (BitVec.ofInt 32 x = 0)
          c := if subtracts op then decide (0 ≤ x) else decide (2 ^ 32 ≤ x)
          v := decide (y < -2 ^ 31 ∨ 2 ^ 31 ≤ y) })

/-- The logical operations (R182, with R188, R189, R196, R197 and R200 to R203): bit by bit; N and Z from the result, C from the
shifter, V unchanged. -/
def Obligations.LogicalResults : Prop :=
  ∀ (op : AluOp) (a b : Word) (shc : Bool) (old : Flags),
    (logicBit op false false).isSome = true →
      (∀ j : Nat, j < 32 → some ((aluResult op a b shc old).1.getLsbD j) = logicBit op (a.getLsbD j) (b.getLsbD j)) ∧
      (aluResult op a b shc old).2 =
        { n := (aluResult op a b shc old).1.getLsbD 31
          z := decide ((aluResult op a b shc old).1 = 0)
          c := shc
          v := old.v }

/-! ### What each instruction does: wide form -/

/-- The data-processing instructions (R180, R183, R186), all sixteen in all three operand forms, when the condition passes and the
form is not one that R167 refuses: the compares write only flags; the others write `rd`, and the flags if S asks. -/
def Obligations.DataProcessing : Prop :=
  ∀ (op : AluOp) (c : Cond) (sb : Bool) (rn rd : Reg) (o : Operand2) (s : State), s.passes c = true →
    (∀ rs ty rm, o = .regReg rs ty rm → rd ≠ 15 ∧ rn ≠ 15 ∧ rm ≠ 15 ∧ rs ≠ 15) →
      let y := aluResult op (s.rdOp .wide rn) (s.shifter o).op2 (s.shifter o).shc s.flags
      let cost := s.cfg.cost.dataProc + operandExtraCost o s.cfg.cost
      (op ∈ [.tst, .teq, .cmp, .cmn] →
        ∃ t, exec (Instr.dataProc op c sb rn rd o) s = .next t ∧ RegsBut [] s t ∧ t.cpsr = withFlags s.cpsr y.2 ∧
          Sequential .wide cost s t ∧ RestSame s t) ∧
      (op ∉ [.tst, .teq, .cmp, .cmn] → rd ≠ 15 →
        ∃ t, exec (Instr.dataProc op c sb rn rd o) s = .next t ∧ t.phys (physOf s.cpsr.m rd) = y.1 ∧
          RegsBut [physOf s.cpsr.m rd] s t ∧ t.cpsr = (if sb then withFlags s.cpsr y.2 else s.cpsr) ∧
          Sequential .wide cost s t ∧ RestSame s t)

/-- Data processing into r15 (R185): with S clear a branch that leaves the flags; with S set the exception return, which restores
CPSR first and masks the target by the restored T. Both cost 2 more. In USR and SYS the form with S set is refused. -/
def Obligations.DataProcessingIntoPc : Prop :=
  ∀ (op : AluOp) (c : Cond) (rn : Reg) (o : Operand2) (s : State), s.passes c = true →
    op ∉ [.tst, .teq, .cmp, .cmn] → (∀ rs ty rm, o ≠ .regReg rs ty rm) →
      let y := aluResult op (s.rdOp .wide rn) (s.shifter o).op2 (s.shifter o).shc s.flags
      let cost := s.cfg.cost.dataProc + 2
      (∃ t, exec (Instr.dataProc op c false rn 15 o) s = .next t ∧ t.cpsr = s.cpsr ∧ RegsBut [] s t ∧
        Redirected y.1 cost s t ∧ RestSame s t) ∧
      (∀ e md, s.excMode = some e → Mode.ofBits (s.spsr.get e).m = some md →
        ∃ t, exec (Instr.dataProc op c true rn 15 o) s = .next t ∧ t.cpsr = s.spsr.get e ∧ RegsBut [] s t ∧
          Redirected y.1 cost s t ∧ RestSame s t) ∧
      (s.cpsr.m = Mode.usr.bits ∨ s.cpsr.m = Mode.sys.bits →
        exec (Instr.dataProc op c true rn 15 o) s = .fault .spsrInUsrSys)

/-- MUL and MLA (R212 to R217): the low 32 bits of the product, with the accumulated register for MLA; N and Z if S asks, C and V
then left open. -/
def Obligations.Multiplies : Prop :=
  ∀ (acc : Bool) (c : Cond) (sb : Bool) (rd rn rs rm : Reg) (s : State), s.passes c = true →
    rd ≠ 15 → rm ≠ 15 → rs ≠ 15 → (acc = true → rn ≠ 15) →
      ∃ t, exec (if acc then .mla c sb rd rn rs rm else .mul c sb rd rn rs rm) s = .next t ∧
        (t.phys (physOf s.cpsr.m rd)).toNat =
          ((s.reg rm).toNat * (s.reg rs).toNat + (if acc then (s.reg rn).toNat else 0)) % 2 ^ 32 ∧
        RegsBut [physOf s.cpsr.m rd] s t ∧
        (sb = false → t.cpsr = s.cpsr ∧ t.draws = s.draws) ∧
        (sb = true → t.cpsr = { s.cpsr with
          n := (t.phys (physOf s.cpsr.m rd)).getLsbD 31
          z := decide (t.phys (physOf s.cpsr.m rd) = 0)
          c := t.cpsr.c
          v := t.cpsr.v }) ∧
        Sequential .wide (if acc then 4 else 3) s t ∧ RestSameButDraws s t

/-- UMULL, UMLAL, SMULL and SMLAL (R212 to R215, R218 to R221): the 64-bit product, unsigned or signed, with the accumulated pair
modulo 2^64; N and Z of the 64 bits if S asks, C and V then left open. -/
def Obligations.LongMultiplies : Prop :=
  ∀ (sgn acc : Bool) (c : Cond) (sb : Bool) (rdHi rdLo rs rm : Reg) (s : State), s.passes c = true →
    rdHi ≠ 15 → rdLo ≠ 15 → rm ≠ 15 → rs ≠ 15 → rdHi ≠ rdLo →
      ∃ t, exec (longMultiplyOf sgn acc c sb rdHi rdLo rs rm) s = .next t ∧
        (let r : BitVec 64 := t.phys (physOf s.cpsr.m rdHi) ++ t.phys (physOf s.cpsr.m rdLo)
         let a : BitVec 64 := if acc then s.reg rdHi ++ s.reg rdLo else 0
         r = BitVec.ofInt 64 ((if sgn then (s.reg rm).toInt * (s.reg rs).toInt
           else ((s.reg rm).toNat : Int) * ((s.reg rs).toNat : Int)) + (a.toNat : Int)) ∧
         (sb = true → t.cpsr = { s.cpsr with
           n := r.getLsbD 63
           z := decide (r = 0)
           c := t.cpsr.c
           v := t.cpsr.v })) ∧
        (sb = false → t.cpsr = s.cpsr ∧ t.draws = s.draws) ∧
        RegsBut [physOf s.cpsr.m rdHi, physOf s.cpsr.m rdLo] s t ∧
        Sequential .wide (longMultiplyCost sgn acc s.cfg.cost) s t ∧ RestSameButDraws s t

/-- B and BL (R230 to R235, R237): the target is `ia + 8` plus four times the signed offset; BL stores `ia - 4` in the current r14,
and with a failing condition writes nothing. -/
def Obligations.WideBranches : Prop :=
  ∀ (c : Cond) (offset : BitVec 24) (s : State),
    (s.passes c = true →
      (∃ t, exec (.b c offset) s = .next t ∧ RegsBut [] s t ∧ t.cpsr = s.cpsr ∧
        Redirected (s.pc + 8 + BitVec.ofInt 32 (4 * offset.toInt)) 3 s t ∧ RestSame s t) ∧
      (∃ t, exec (.bl c offset) s = .next t ∧ t.phys (physOf s.cpsr.m 14) = s.pc - 4 ∧
        RegsBut [physOf s.cpsr.m 14] s t ∧ t.cpsr = s.cpsr ∧
        Redirected (s.pc + 8 + BitVec.ofInt 32 (4 * offset.toInt)) 3 s t ∧ RestSame s t)) ∧
    (s.passes c = false →
      exec (.b c offset) s = .next { s with pc := s.pc + 4, cycles := s.cycles + 1 } ∧
      exec (.bl c offset) s = .next { s with pc := s.pc + 4, cycles := s.cycles + 1 })

/-- BX of both forms (R236, R349): bit 0 of the register becomes T, and the program counter gets the rest, its low one bit cleared in
the narrow form and its low two in the wide form. -/
def Obligations.BranchExchange : Prop :=
  ∀ (r : Reg) (s : State),
    (∀ c, s.passes c = true →
      ∃ t, exec (.bx c r) s = .next t ∧ RegsBut [] s t ∧ t.cpsr = { s.cpsr with t := (s.rdOp .wide r).getLsbD 0 } ∧
        Redirected (s.rdOp .wide r) 3 s t ∧ RestSame s t) ∧
    ∃ t, exec (.tBx r) s = .next t ∧ RegsBut [] s t ∧ t.cpsr = { s.cpsr with t := (s.rdOp .narrow r).getLsbD 0 } ∧
      Redirected (s.rdOp .narrow r) 3 s t ∧ RestSame s t

/-- The software interrupt of both forms (R300, R393, R440): CPSR into the SPSR and `ia - 4` into the r14 of the mode entered, that
mode with I set and T clear, the program counter at the vector, cost 3; nothing else changes. With a failing condition the wide
form does nothing. -/
def Obligations.SoftwareInterrupt : Prop :=
  (∀ (s : State) c x, s.passes c = false →
    exec (.swi c x) s = .next { s with pc := s.pc + 4, cycles := s.cycles + 1 }) ∧
  ∀ (i : Instr) (s : State),
    ((∃ c x, i = .swi c x ∧ s.passes c = true) ∨ ∃ x, i = .tSwi x) →
      let e : ExcMode := match s.cfg.swiMode with
        | .svc => .svc
        | .irq => .irq
      ∃ t, exec i s = .next t ∧ t.spsr = s.spsr.set e s.cpsr ∧ t.phys (.lr e.toMode.bank) = s.pc - 4 ∧
        t.cpsr = { s.cpsr with m := e.toMode.bits, i := true, t := false } ∧
        t.pc = s.cfg.vecSwi &&& 0xFFFFFFFC#32 ∧ t.cycles = s.cycles + 3 ∧ RegsBut [.lr e.toMode.bank] s t ∧
        t.ie = s.ie ∧ t.ifr = s.ifr ∧ t.ime = s.ime ∧ t.halted = s.halted ∧ t.mem = s.mem ∧ t.cfg = s.cfg ∧
        t.draws = s.draws ∧ t.bus = s.bus

/-- The wide loads (R251 to R257, R259, R260, R262 to R266), all eight in both offset forms: the loaded value in `rd`, or a branch
that leaves T when `rd` is r15; the base written back when the addressing mode asks, and the loaded value winning over it. -/
def Obligations.WideLoads : Prop :=
  ∀ (i : Instr) (s : State) (x : Single) (k : LoadKind), singleOf i s = some x → x.acc = .load k →
    s.passes x.c = true → ¬ (x.rn = 15 ∧ x.wb = true) → s.misaligned k.width (x.addr s) = false →
      ∃ t, exec i s = .next t ∧
        (x.rd ≠ 15 → t.phys (physOf s.cpsr.m x.rd) = (s.load k (x.addr s)).1 ∧
          Sequential .wide (x.acc.cost s.cfg.cost) s t) ∧
        (x.rd = 15 → Redirected (s.load k (x.addr s)).1 (x.acc.cost s.cfg.cost + s.cfg.cost.loadPc) s t) ∧
        (x.wb = true → x.rn ≠ x.rd → t.phys (physOf s.cpsr.m x.rn) = x.ea s) ∧
        RegsBut (physOf s.cpsr.m x.rd :: if x.wb then [physOf s.cpsr.m x.rn] else []) s t ∧ t.cpsr = s.cpsr ∧
        RestSameButBus s t ∧ t.draws = (s.load k (x.addr s)).2.draws ∧ t.bus = (s.load k (x.addr s)).2.bus

/-- The wide stores (R251 to R257, R261, R263, R267), all four in both offset forms: the low bytes of the register as it was, r15 as
`ia + 8`, at the aligned address and nowhere else; the base written back when the addressing mode asks. -/
def Obligations.WideStores : Prop :=
  ∀ (i : Instr) (s : State) (x : Single) (w : Width), s.memCanonical → singleOf i s = some x → x.acc = .store w →
    s.passes x.c = true → ¬ (x.rn = 15 ∧ x.wb = true) → s.misaligned w (x.addr s) = false →
      let v := if x.rd = 15 then s.pc + 8 else s.reg x.rd
      ∃ t, exec i s = .next t ∧ Sequential .wide (x.acc.cost s.cfg.cost) s t ∧
        (x.wb = true → t.phys (physOf s.cpsr.m x.rn) = x.ea s) ∧
        RegsBut (if x.wb then [physOf s.cpsr.m x.rn] else []) s t ∧ t.cpsr = s.cpsr ∧
        StoredAs (s.memWrite w (x.addr s) v) s t ∧ BytesStored w.bytes (w.alignDown (x.addr s)) v s t ∧
        QuietStore w.bytes (w.alignDown (x.addr s)) s t

/-- LDM, POP and LDMIA without an exception return (R281 to R287, R382 to R386): each listed register gets its word, lowest register
from the lowest address, of the user bank where the S bit says so; r15 in the list is a branch that leaves T; the base is written
back when W asks. -/
def Obligations.BlockLoads : Prop :=
  ∀ (i : Instr) (c : Cond) (x : Block) (s : State), blockOf i = some (c, x) → x.store = false → s.passes c = true →
    x.refused = false → s.misaligned .word (x.start s) = false → ¬ (x.sb = true ∧ x.list.getLsbD 15 = true) →
      let vs := (s.readWords (x.start s) x.n).1
      let cost := s.cfg.cost.ldmBase + x.n
      ∃ t, exec i s = .next t ∧
        (∀ r : Reg, x.list.getLsbD r.val = true → r ≠ 15 → t.phys (x.phys s r) = vs.getD (rankIn x.list r.val) 0) ∧
        (x.w = true → t.phys (physOf s.cpsr.m x.rn) = x.final s) ∧
        (∀ p : PhysReg, p ≠ .pc → (x.w = true → p ≠ physOf s.cpsr.m x.rn) →
          (∀ r : Reg, x.list.getLsbD r.val = true → p ≠ x.phys s r) → t.phys p = s.phys p) ∧
        (x.list.getLsbD 15 = true → Redirected (vs.getD (rankIn x.list 15) 0) (cost + s.cfg.cost.loadPc) s t) ∧
        (x.list.getLsbD 15 = false → Sequential x.f cost s t) ∧
        t.cpsr = s.cpsr ∧ RestSameButBus s t ∧ t.draws = (s.readWords (x.start s) x.n).2.draws ∧
        t.bus = (s.readWords (x.start s) x.n).2.bus

/-- LDM with the S bit and r15 in the list (R288): the other registers through the current mode, then CPSR from its SPSR, then the
program counter masked by the restored T. -/
def Obligations.BlockExceptionReturn : Prop :=
  ∀ (i : Instr) (c : Cond) (x : Block) (s : State) (e : ExcMode) (md : Mode), blockOf i = some (c, x) →
    x.store = false → s.passes c = true → x.refused = false → s.misaligned .word (x.start s) = false →
    x.sb = true → x.list.getLsbD 15 = true → s.excMode = some e → Mode.ofBits (s.spsr.get e).m = some md →
      let vs := (s.readWords (x.start s) x.n).1
      ∃ t, exec i s = .next t ∧
        (∀ r : Reg, x.list.getLsbD r.val = true → r ≠ 15 →
          t.phys (physOf s.cpsr.m r) = vs.getD (rankIn x.list r.val) 0) ∧
        (x.w = true → t.phys (physOf s.cpsr.m x.rn) = x.final s) ∧
        (∀ p : PhysReg, p ≠ .pc → (x.w = true → p ≠ physOf s.cpsr.m x.rn) →
          (∀ r : Reg, x.list.getLsbD r.val = true → p ≠ physOf s.cpsr.m r) → t.phys p = s.phys p) ∧
        t.cpsr = s.spsr.get e ∧
        Redirected (vs.getD (rankIn x.list 15) 0) (s.cfg.cost.ldmBase + x.n + s.cfg.cost.loadPc) s t ∧
        RestSameButBus s t ∧ t.draws = (s.readWords (x.start s) x.n).2.draws ∧
        t.bus = (s.readWords (x.start s) x.n).2.bus

/-- STM, PUSH and STMIA (R281 to R283, R285 to R287, R382, R385): each listed register's word as it was, r15 as `ia + PIPE`, lowest
register at the lowest address; no byte outside the `4n` stored ones changes; the base is written back when W asks. -/
def Obligations.BlockStores : Prop :=
  ∀ (i : Instr) (c : Cond) (x : Block) (s : State), s.memCanonical → blockOf i = some (c, x) → x.store = true →
    s.passes c = true → x.refused = false → s.misaligned .word (x.start s) = false →
      let v := fun r : Reg => if r = 15 then s.pc + x.f.pipe else s.phys (x.phys s r)
      ∃ t, exec i s = .next t ∧ Sequential x.f (s.cfg.cost.stmBase + x.n) s t ∧
        (x.w = true → t.phys (physOf s.cpsr.m x.rn) = x.final s) ∧
        RegsBut (if x.w then [physOf s.cpsr.m x.rn] else []) s t ∧ t.cpsr = s.cpsr ∧
        StoredAs (s.writeWords (x.start s) ((regsOf x.list).map v)) s t ∧
        (∀ r : Reg, x.list.getLsbD r.val = true → ∀ k, k < 4 →
          s.kind (byteAddr (Width.word.alignDown (x.slot s r)) k) = .ram →
            t.mem.read (byteAddr (Width.word.alignDown (x.slot s r)) k).toNat = (v r >>> (8 * k)).setWidth 8) ∧
        (∀ b : Word, (∀ k, k < 4 * x.n → b ≠ byteAddr (Width.word.alignDown (x.start s)) k) →
          t.mem.read b.toNat = s.mem.read b.toNat) ∧
        QuietStore (4 * x.n) (Width.word.alignDown (x.start s)) s t

/-- SWP and SWPB (R291 to R294): the old contents of memory in `rd`, the old register at the same address, in that order; all
registers are read first. -/
def Obligations.Swaps : Prop :=
  ∀ (byte : Bool) (c : Cond) (rn rd rm : Reg) (s : State), s.memCanonical → s.passes c = true →
    rn ≠ 15 → rd ≠ 15 → rm ≠ 15 →
      let k : LoadKind := if byte then .byte else .word
      s.misaligned k.width (s.reg rn) = false →
        ∃ t, exec (if byte then .swpb c rn rd rm else .swp c rn rd rm) s = .next t ∧
          t.phys (physOf s.cpsr.m rd) = (s.load k (s.reg rn)).1 ∧ RegsBut [physOf s.cpsr.m rd] s t ∧
          t.cpsr = s.cpsr ∧ Sequential .wide s.cfg.cost.swap s t ∧
          StoredAs ((s.load k (s.reg rn)).2.memWrite k.width (s.reg rn) (s.reg rm)) s t ∧
          BytesStored k.width.bytes (k.width.alignDown (s.reg rn)) (s.reg rm) s t ∧
          QuietStore k.width.bytes (k.width.alignDown (s.reg rn)) s t

/-! ### What each instruction does: narrow form -/

/-- Every instruction of formats 1 to 4, and the additions to and from sp of formats 12 and 13, does what its wide counterpart does,
flags and cost included, and advances the program counter by 2 (R310 to R340, R377, R379, R380). -/
def Obligations.NarrowDoesAsWide : Prop :=
  ∀ (i j : Instr) (s : State), wideTwin i = some j →
    ∃ t, exec j s = .next t ∧ exec i s = .next { t with pc := s.pc + 2 }

/-- ADD, CMP and MOV of format 5 (R345 to R348): register numbers of four bits, r15 read as `ia + 4`; only CMP writes flags; r15 as a
destination is a branch that leaves T and costs 2 more. -/
def Obligations.HighRegisterOperations : Prop :=
  ∀ (i : Instr) (op : AluOp) (src dst : Reg) (s : State), highOf i = some (op, src, dst) →
    let a := s.rdOp .narrow dst
    let b := s.rdOp .narrow src
    let r := if op = .mov then b else a + b
    (op = .cmp → ∃ t, exec i s = .next t ∧ RegsBut [] s t ∧
      t.cpsr = { s.cpsr with
        n := (a - b).getLsbD 31
        z := decide (a = b)
        c := decide (b.toNat ≤ a.toNat)
        v := decide (a.toInt - b.toInt < -2 ^ 31 ∨ 2 ^ 31 ≤ a.toInt - b.toInt) } ∧
      Sequential .narrow s.cfg.cost.dataProc s t ∧ RestSame s t) ∧
    (op ≠ .cmp → dst ≠ 15 → ∃ t, exec i s = .next t ∧ t.phys (physOf s.cpsr.m dst) = r ∧
      RegsBut [physOf s.cpsr.m dst] s t ∧ t.cpsr = s.cpsr ∧ Sequential .narrow s.cfg.cost.dataProc s t ∧ RestSame s t) ∧
    (op ≠ .cmp → dst = 15 → ∃ t, exec i s = .next t ∧ RegsBut [] s t ∧ t.cpsr = s.cpsr ∧
      Redirected r (s.cfg.cost.dataProc + 2) s t ∧ RestSame s t)

/-- The narrow loads (R350, R351, R354, R355, R357 to R359, R361, R363, R370, R372, R374). -/
def Obligations.NarrowLoads : Prop :=
  ∀ (i : Instr) (s : State) (x : NarrowSingle) (k : LoadKind), narrowSingleOf i s = some x → x.acc = .load k →
    s.misaligned k.width x.addr = false →
      ∃ t, exec i s = .next t ∧ t.phys (physOf s.cpsr.m x.rd.toReg) = (s.load k x.addr).1 ∧
        RegsBut [physOf s.cpsr.m x.rd.toReg] s t ∧ t.cpsr = s.cpsr ∧
        Sequential .narrow (x.acc.cost s.cfg.cost) s t ∧ RestSameButBus s t ∧
        t.draws = (s.load k x.addr).2.draws ∧ t.bus = (s.load k x.addr).2.bus

/-- The narrow stores (R351 to R353, R356, R360, R362, R370, R371, R373). -/
def Obligations.NarrowStores : Prop :=
  ∀ (i : Instr) (s : State) (x : NarrowSingle) (w : Width), s.memCanonical → narrowSingleOf i s = some x →
    x.acc = .store w → s.misaligned w x.addr = false →
      ∃ t, exec i s = .next t ∧ Sequential .narrow (x.acc.cost s.cfg.cost) s t ∧ RegsBut [] s t ∧ t.cpsr = s.cpsr ∧
        StoredAs (s.memWrite w x.addr (s.reg x.rd.toReg)) s t ∧
        BytesStored w.bytes (w.alignDown x.addr) (s.reg x.rd.toReg) s t ∧ QuietStore w.bytes (w.alignDown x.addr) s t

/-- ADD from pc, format 12 (R378): `(ia + 4) & ~2` plus four times the immediate; no flags. -/
def Obligations.NarrowAddPc : Prop :=
  ∀ (rd : LowReg) (word8 : BitVec 8) (s : State),
    ∃ t, exec (.tAddPc rd word8) s = .next t ∧
      t.phys (physOf s.cpsr.m rd.toReg) = ((s.pc + 4) &&& ~~~ 2#32) + BitVec.ofNat 32 (4 * word8.toNat) ∧
      RegsBut [physOf s.cpsr.m rd.toReg] s t ∧ t.cpsr = s.cpsr ∧ Sequential .narrow s.cfg.cost.dataProc s t ∧
      RestSame s t

/-- The narrow branches (R388, R389, R395): the base is `ia + 4`, offsets count halfwords; a conditional branch that is not taken costs
1. -/
def Obligations.NarrowBranches : Prop :=
  ∀ (s : State),
    (∀ c (x : BitVec 8), s.passes c = true → ∃ t, exec (.tBCond c x) s = .next t ∧ RegsBut [] s t ∧ t.cpsr = s.cpsr ∧
      Redirected (s.pc + 4 + BitVec.ofInt 32 (2 * x.toInt)) 3 s t ∧ RestSame s t) ∧
    (∀ c (x : BitVec 8), s.passes c = false → exec (.tBCond c x) s =
      .next { s with pc := s.pc + 2, cycles := s.cycles + 1 }) ∧
    (∀ x : BitVec 11, ∃ t, exec (.tB x) s = .next t ∧ RegsBut [] s t ∧ t.cpsr = s.cpsr ∧
      Redirected (s.pc + 4 + BitVec.ofInt 32 (2 * x.toInt)) 3 s t ∧ RestSame s t)

/-- The two halves of the narrow branch with link (R397 to R399): the first puts the upper part of the target into the current r14,
the second takes it from there, branches, and leaves its own address less 4 in r14; one after the other they reach the first
half's address plus 4 plus the 22-bit offset, counted in halfwords. -/
def Obligations.NarrowBranchWithLink : Prop :=
  ∀ (s : State) (hi lo : BitVec 11),
    (∃ t, exec (.tBlFirst hi) s = .next t ∧
      t.phys (physOf s.cpsr.m 14) = s.pc + 4 + BitVec.ofInt 32 (4096 * hi.toInt) ∧ RegsBut [physOf s.cpsr.m 14] s t ∧
      t.cpsr = s.cpsr ∧ Sequential .narrow s.cfg.cost.blFirst s t ∧ RestSame s t) ∧
    (∃ t, exec (.tBlSecond lo) s = .next t ∧ t.phys (physOf s.cpsr.m 14) = s.pc - 4 ∧
      RegsBut [physOf s.cpsr.m 14] s t ∧ t.cpsr = s.cpsr ∧
      Redirected (s.reg 14 + BitVec.ofNat 32 (2 * lo.toNat)) 3 s t ∧ RestSame s t) ∧
    (s.cpsr.t = true → s.pcAligned → ∃ t u, exec (.tBlFirst hi) s = .next t ∧ exec (.tBlSecond lo) t = .next u ∧
      u.pc = s.pc + 4 + BitVec.ofInt 32 (4096 * hi.toInt + 2 * (lo.toNat : Int)) ∧ u.reg 14 = s.pc - 2)

/-! ### Where an instruction stops -/

/-- The six NotRecognized instructions end the step with `DecodeError`, which carries the address and the raw word, whatever the
state (R304); a category in `UNIMPLEMENTED_SET` ends it with `NotImplemented` before the condition gate (R145, R305). -/
def Obligations.NotRecognizedStops : Prop :=
  (∀ (s : State) (w : Word) (h : Half),
    exec (.nrHalfwordSpace w) s = .fault (.decodeError s.pc w) ∧
    exec (.nrUndefinedSpace w) s = .fault (.decodeError s.pc w) ∧
    exec (.nrCoprocessorSpace w) s = .fault (.decodeError s.pc w) ∧
    exec (.nrHighRegisterSpace h) s = .fault (.decodeError s.pc (h.setWidth 32)) ∧
    exec (.nrCond14 h) s = .fault (.decodeError s.pc (h.setWidth 32)) ∧
    exec (.nrNarrow h) s = .fault (.decodeError s.pc (h.setWidth 32))) ∧
  (∀ s : State, s.checkPending = false → s.halted = false →
    (∀ cat, (decode s.fetch.1).category = some cat → cat ∈ s.cfg.unimplemented →
      step s = .fault (.notImplemented s.pc s.fetch.1.value cat)) ∧
    ((decode s.fetch.1).category = none → step s = .fault (.decodeError s.pc s.fetch.1.value)))

/-- The register combinations that R167, R214 and R291 refuse, once the condition has passed. That the first clause refuses r15 also in
a field the operation ignores (Rn of MOV and MVN, Rd of the comparisons) is the model's reading of R167 (DEDUCED, log entry
10). -/
def Obligations.RefusedRegisters : Prop :=
  ∀ (c : Cond) (sb : Bool) (s : State), s.passes c = true →
    (∀ op rn rd rs ty rm, (rd = 15 ∨ rn = 15 ∨ rm = 15 ∨ rs = 15) →
      exec (Instr.dataProc op c sb rn rd (.regReg rs ty rm)) s = .fault .r15WithRegisterShift) ∧
    (∀ rd rn rs rm, (rd = 15 ∨ rm = 15 ∨ rs = 15) → exec (.mul c sb rd rn rs rm) s = .fault .r15InMultiply) ∧
    (∀ rd rn rs rm, (rd = 15 ∨ rm = 15 ∨ rs = 15 ∨ rn = 15) →
      exec (.mla c sb rd rn rs rm) s = .fault .r15InMultiply) ∧
    (∀ sgn acc rdHi rdLo rs rm, (rdHi = 15 ∨ rdLo = 15 ∨ rm = 15 ∨ rs = 15) →
      exec (longMultiplyOf sgn acc c sb rdHi rdLo rs rm) s = .fault .r15InMultiply) ∧
    (∀ sgn acc rd rs rm, rd ≠ 15 → rm ≠ 15 → rs ≠ 15 →
      exec (longMultiplyOf sgn acc c sb rd rd rs rm) s = .fault .rdHiEqRdLo) ∧
    (∀ rn rd rm, (rn = 15 ∨ rd = 15 ∨ rm = 15) →
      exec (.swp c rn rd rm) s = .fault .r15InSwap ∧ exec (.swpb c rn rd rm) s = .fault .r15InSwap)

/-- The transfers that R255, R289, R381 and R73 refuse, once the condition has passed: a base r15 with write-back, the block
combinations, and a misaligned address under the default policy, that of the word swap too. -/
def Obligations.RefusedTransfers : Prop :=
  ∀ (i : Instr) (s : State),
    (∀ x, singleOf i s = some x → s.passes x.c = true →
      (x.rn = 15 ∧ x.wb = true → exec i s = .fault .baseR15WithWriteback) ∧
      (¬ (x.rn = 15 ∧ x.wb = true) → ∀ w, (x.acc = .store w ∨ ∃ k, x.acc = .load k ∧ k.width = w) →
        s.cfg.misalign = .refuse → (x.addr s).toNat % w.bytes ≠ 0 → exec i s = .fault .misaligned)) ∧
    (∀ x, narrowSingleOf i s = some x → ∀ w, (x.acc = .store w ∨ ∃ k, x.acc = .load k ∧ k.width = w) →
      s.cfg.misalign = .refuse → x.addr.toNat % w.bytes ≠ 0 → exec i s = .fault .misaligned) ∧
    (∀ c x, blockOf i = some (c, x) → s.passes c = true →
      (x.list = 0 → exec i s = .fault .emptyList) ∧
      (x.list ≠ 0 → x.rn = 15 → exec i s = .fault .baseR15) ∧
      (x.list ≠ 0 → x.rn ≠ 15 → x.user = true → x.w = true → exec i s = .fault .userBankWithWriteback) ∧
      (x.list ≠ 0 → x.rn ≠ 15 → x.user = false → x.w = true → x.list.getLsbD x.rn.val = true →
        (x.store = true → rankIn x.list x.rn.val ≠ 0) → exec i s = .fault .baseInListWithWriteback) ∧
      (x.refused = false → s.cfg.misalign = .refuse → (x.start s).toNat % 4 ≠ 0 → exec i s = .fault .misaligned)) ∧
    (∀ c rn rd rm, i = .swp c rn rd rm → s.passes c = true → rn ≠ 15 → rd ≠ 15 → rm ≠ 15 → s.cfg.misalign = .refuse →
      (s.reg rn).toNat % 4 ≠ 0 → exec i s = .fault .misaligned)

/-- `CPSR <- SPSR` is refused in USR and SYS, which have no SPSR, and for a saved mode number that is no mode (R33, R38), in the
data-processing form and in the block form. -/
def Obligations.RefusedRestores : Prop :=
  ∀ (i : Instr) (s : State),
    ((∃ op c rn o, i = Instr.dataProc op c true rn 15 o ∧ s.passes c = true ∧ op ∉ [.tst, .teq, .cmp, .cmn] ∧
        ∀ rs ty rm, o ≠ .regReg rs ty rm) ∨
      (∃ c x, blockOf i = some (c, x) ∧ s.passes c = true ∧ x.store = false ∧ x.refused = false ∧ x.sb = true ∧
        x.list.getLsbD 15 = true ∧ s.misaligned .word (x.start s) = false)) →
      ((s.cpsr.m = Mode.usr.bits ∨ s.cpsr.m = Mode.sys.bits) → exec i s = .fault .spsrInUsrSys) ∧
      (∀ e, s.excMode = some e → Mode.ofBits (s.spsr.get e).m = none → exec i s = .fault .illegalMode)

/-! ### The snapshot port -/

/-- Loading a saved snapshot into any block gives the saved state, with that block's memory, parameters, draws and device record
(R480 to R482). A snapshot is malformed, and its load is a `StateError`, exactly when a field is missing or has the wrong
width, the mode number is no mode, the mode or the width flag disagrees with CPSR, IE or IF has a bit above 13, or r15 is not
aligned to the width that T selects (R481). Every other snapshot is loaded whole: each field is restored exactly, and nothing
outside the snapshot changes. The form a snapshot has, and that IE and IF may come in more than 14 bits, is the model's choice
(DESIGN CHOICE, log entry 18). -/
def Obligations.Snapshots : Prop :=
  (∀ s u : State, s.modeLegal → s.pcAligned →
    u.loadState s.saveState = .ok { s with mem := u.mem, cfg := u.cfg, draws := u.draws, bus := u.bus }) ∧
  (∀ (s : State) (x : Snapshot),
    s.loadState x = .error .malformed ↔
      ((∃ p, ∀ v : BitVec 32, List.lookup (.reg p) x ≠ some (.bits 32 v)) ∨
        (∀ v : BitVec 32, List.lookup .cpsr x ≠ some (.bits 32 v)) ∨
        (∃ e, ∀ v : BitVec 32, List.lookup (.spsr e) x ≠ some (.bits 32 v)) ∨
        (∀ v : BitVec 5, List.lookup .mode x ≠ some (.bits 5 v)) ∨
        (∀ n : Nat, List.lookup .cycles x ≠ some (.number n)) ∨
        (∃ f ∈ [SnapshotField.instructionWidthFlag, .ime, .halted], ∀ v : BitVec 1, List.lookup f x ≠ some (.bits 1 v)) ∨
        (∃ f ∈ [SnapshotField.ie, .ifr], ∀ (w : Nat) (v : BitVec w), 14 ≤ w → List.lookup f x ≠ some (.bits w v)) ∨
        (∃ f ∈ [SnapshotField.ie, .ifr], ∃ (w j : Nat) (v : BitVec w),
          List.lookup f x = some (.bits w v) ∧ 14 ≤ j ∧ v.getLsbD j = true) ∨
        Mode.ofBits ((x.bits 32 .cpsr).extractLsb' 0 5) = none ∨
        x.bits 5 .mode ≠ (x.bits 32 .cpsr).extractLsb' 0 5 ∨
        x.bits 1 .instructionWidthFlag ≠ (x.bits 32 .cpsr).extractLsb' 5 1 ∨
        (x.bits 32 (.reg .pc)).toNat % (if (x.bits 32 .cpsr).getLsbD 5 then 2 else 4) ≠ 0)) ∧
  ∀ (s t : State) (x : Snapshot), s.loadState x = .ok t →
    (∀ p v, List.lookup (.reg p) x = some (.bits 32 v) → t.phys p = v) ∧
    (∀ v, List.lookup .cpsr x = some (.bits 32 v) → t.cpsr.toWord = v) ∧
    (∀ e v, List.lookup (.spsr e) x = some (.bits 32 v) → (t.spsr.get e).toWord = v) ∧
    (∀ n, List.lookup .cycles x = some (.number n) → t.cycles = n) ∧
    (∀ w v, List.lookup .ie x = some (.bits w v) → t.ie = v.setWidth 14) ∧
    (∀ w v, List.lookup .ifr x = some (.bits w v) → t.ifr = v.setWidth 14) ∧
    (∀ v, List.lookup .ime x = some (.bits 1 v) → BitVec.ofBool t.ime = v) ∧
    (∀ v, List.lookup .halted x = some (.bits 1 v) → BitVec.ofBool t.halted = v) ∧
    t.mem = s.mem ∧ t.cfg = s.cfg ∧ t.draws = s.draws ∧ t.bus = s.bus

/-! ### Devices -/

/-- A byte of a DEVICE region (R62, R63, R67, R76, R77). Read, it is the value of the current draw (log entry 2); one draw is counted and
one event delivered (log entry 7), and nothing else changes. Written, it is delivered as one event, memory stays as it is, and
the requests it raises, a free set of types (log entry 8), take effect with it as R428 and R429 say: IF gains their bits, and
the halt ends exactly if one of them is enabled. -/
def Obligations.DeviceBytes : Prop :=
  ∀ (s : State) (p : Word) (b : Byte), s.kind p = .device →
    s.byteRead p = (Config.deviceByte s.draws p,
      { s with draws := s.draws + 1, bus := .read p (Config.deviceByte s.draws p) :: s.bus }) ∧
    let raised := Config.deviceRequests s.draws p b
    let t := s.byteWrite p b
    t = { s with draws := s.draws + 1, bus := .write p b :: s.bus, ifr := t.ifr, halted := t.halted } ∧
      (∀ j : Nat, t.ifr.getLsbD j = (s.ifr.getLsbD j || raised.getLsbD j)) ∧
      (t.halted = true ↔ s.halted = true ∧ ∀ j : Nat, ¬ (raised.getLsbD j = true ∧ s.ie.getLsbD j = true))
end

