-- ==== Sys2Proof/Laws/Memory.lean ====
section
/-! SUPPORT. The laws of the memory list: a write is read back, it leaves every other address alone, and it keeps the canonical form. -/

namespace Sys2Proof.Machine

open Sys2Proof

/-- The empty memory is canonical. -/
theorem Memory.wf_nil : Memory.wf [] := ⟨List.Pairwise.nil, by simp⟩

/-- Memory right after reset is canonical. -/
theorem reset_mem_wf : Memory.wf State.reset.mem := Memory.wf_nil

/-- The rest of a canonical memory is canonical. -/
theorem Memory.wf_tail {c : Host.Cell} {m : Memory} (h : Memory.wf (c :: m)) : Memory.wf m :=
  ⟨(List.pairwise_cons.1 h.1).2, fun x hx => h.2 x (by simp [hx])⟩

/-- An address below every entry reads as 0. -/
theorem Memory.read_below {m : Memory} {a : Nat} (h : ∀ x ∈ m, a < x.1) : Memory.read m a = 0 := by
  induction m with
  | nil => rfl
  | cons c m ih =>
    have hc : a < c.1 := h c (by simp)
    have hne : c.1 ≠ a := by omega
    simp only [Memory.read, hne, if_false]
    exact ih fun x hx => h x (by simp [hx])

/-- The addresses a write leaves are old ones and the one written. -/
theorem Memory.mem_write {m : Memory} {a : Nat} {b : Byte} {x : Host.Cell} (h : x ∈ Memory.write m a b) :
    x ∈ m ∨ (x = (a, b) ∧ b ≠ 0) := by
  induction m with
  | nil =>
    simp only [Memory.write] at h
    split at h
    · simp at h
    · simp only [List.mem_singleton] at h; exact Or.inr ⟨h, ‹_›⟩
  | cons c m ih =>
    simp only [Memory.write] at h
    split at h
    · rcases List.mem_cons.1 h with h | h
      · exact Or.inl (by simp [h])
      · rcases ih h with h | h
        · exact Or.inl (by simp [h])
        · exact Or.inr h
    · split at h
      · split at h
        · exact Or.inl (by simp [h])
        · rcases List.mem_cons.1 h with h | h
          · exact Or.inr ⟨h, ‹_›⟩
          · exact Or.inl (by simp [h])
      · split at h
        · exact Or.inl h
        · rcases List.mem_cons.1 h with h | h
          · exact Or.inr ⟨h, ‹_›⟩
          · exact Or.inl h

/-- A write keeps the canonical form. -/
theorem Memory.wf_write {m : Memory} (h : Memory.wf m) (a : Nat) (b : Byte) : Memory.wf (Memory.write m a b) := by
  refine ⟨?_, fun x hx => ?_⟩
  · induction m with
    | nil => simp only [Memory.write]; split <;> simp
    | cons c m ih =>
      have hp := List.pairwise_cons.1 h.1
      simp only [Memory.write]
      split
      · refine List.pairwise_cons.2 ⟨fun x hx => ?_, ih (Memory.wf_tail h)⟩
        rcases Memory.mem_write hx with hx | ⟨hx, -⟩
        · exact hp.1 x hx
        · subst hx; assumption
      · split
        · split
          · exact hp.2
          · rename_i hc hb
            exact List.pairwise_cons.2 ⟨fun x hx => hc ▸ hp.1 x hx, hp.2⟩
        · split
          · exact h.1
          · rename_i h1 h2 h3
            refine List.pairwise_cons.2 ⟨fun x hx => ?_, h.1⟩
            rcases List.mem_cons.1 hx with hx | hx
            · subst hx; show a < x.1; omega
            · have := hp.1 x hx; show a < x.1; omega
  · rcases Memory.mem_write hx with hx | ⟨hx, hb⟩
    · exact h.2 x hx
    · subst hx; exact hb

/-- A write leaves every other address alone; no premise on the memory. -/
theorem Memory.read_write_other {m : Memory} {a a' : Nat} (b : Byte) (h : a' ≠ a) :
    Memory.read (Memory.write m a b) a' = Memory.read m a' := by
  induction m with
  | nil =>
    simp only [Memory.write]
    split
    · rfl
    · simp [Memory.read, h.symm]
  | cons c m ih =>
    simp only [Memory.write]
    split
    · simp only [Memory.read, ih]
    · split
      · rename_i hc
        have hne : c.1 ≠ a' := by omega
        split <;> simp [Memory.read, hne, h.symm]
      · split
        · rfl
        · simp [Memory.read, h.symm]

/-- A write is read back. -/
theorem Memory.read_write_same {m : Memory} (h : Memory.wf m) (a : Nat) (b : Byte) :
    Memory.read (Memory.write m a b) a = b := by
  induction m with
  | nil =>
    simp only [Memory.write]
    split
    · subst_vars; rfl
    · simp [Memory.read]
  | cons c m ih =>
    have hp := List.pairwise_cons.1 h.1
    simp only [Memory.write]
    split
    · rename_i hc
      have hne : c.1 ≠ a := by omega
      simp only [Memory.read, hne, if_false, ih (Memory.wf_tail h)]
    · split
      · rename_i hc
        split
        · rename_i hb
          rw [Memory.read_below fun x hx => hc ▸ hp.1 x hx, hb]
        · simp [Memory.read]
      · rename_i h1 h2
        split
        · rename_i hb
          rw [hb]
          refine Memory.read_below fun x hx => ?_
          rcases List.mem_cons.1 hx with hx | hx
          · subst hx; omega
          · have := hp.1 x hx; omega
        · simp [Memory.read]

/-- Reading after a write, in one equation. -/
theorem Memory.read_write {m : Memory} (h : Memory.wf m) (a a' : Nat) (b : Byte) :
    Memory.read (Memory.write m a b) a' = if a' = a then b else Memory.read m a' := by
  split
  · subst_vars; exact Memory.read_write_same h _ _
  · exact Memory.read_write_other b ‹_›

end Sys2Proof.Machine
end

