-- ==== Sys2Proof/Laws/State.lean ====
section
/-! SUPPORT. One lemma for each field under each named update of the state, so that no proof unfolds a record update. -/

namespace Sys2Proof.Machine

open Sys2Proof

/-! ### `setRegs` -/

@[simp] theorem setRegs_regs (s : State) (v : RegFile) : (s.setRegs v).regs = v := rfl
@[simp] theorem setRegs_pc (s : State) (v : RegFile) : (s.setRegs v).pc = s.pc := rfl
@[simp] theorem setRegs_cpsr (s : State) (v : RegFile) : (s.setRegs v).cpsr = s.cpsr := rfl
@[simp] theorem setRegs_spsr (s : State) (v : RegFile) : (s.setRegs v).spsr = s.spsr := rfl
@[simp] theorem setRegs_ie (s : State) (v : RegFile) : (s.setRegs v).ie = s.ie := rfl
@[simp] theorem setRegs_ifr (s : State) (v : RegFile) : (s.setRegs v).ifr = s.ifr := rfl
@[simp] theorem setRegs_ime (s : State) (v : RegFile) : (s.setRegs v).ime = s.ime := rfl
@[simp] theorem setRegs_halted (s : State) (v : RegFile) : (s.setRegs v).halted = s.halted := rfl
@[simp] theorem setRegs_cycles (s : State) (v : RegFile) : (s.setRegs v).cycles = s.cycles := rfl
@[simp] theorem setRegs_mem (s : State) (v : RegFile) : (s.setRegs v).mem = s.mem := rfl
@[simp] theorem setRegs_cfg (s : State) (v : RegFile) : (s.setRegs v).cfg = s.cfg := rfl
@[simp] theorem setRegs_draws (s : State) (v : RegFile) : (s.setRegs v).draws = s.draws := rfl
@[simp] theorem setRegs_bus (s : State) (v : RegFile) : (s.setRegs v).bus = s.bus := rfl

/-! ### `setRawPc` -/

@[simp] theorem setRawPc_regs (s : State) (v : Word) : (s.setRawPc v).regs = s.regs := rfl
@[simp] theorem setRawPc_pc (s : State) (v : Word) : (s.setRawPc v).pc = v := rfl
@[simp] theorem setRawPc_cpsr (s : State) (v : Word) : (s.setRawPc v).cpsr = s.cpsr := rfl
@[simp] theorem setRawPc_spsr (s : State) (v : Word) : (s.setRawPc v).spsr = s.spsr := rfl
@[simp] theorem setRawPc_ie (s : State) (v : Word) : (s.setRawPc v).ie = s.ie := rfl
@[simp] theorem setRawPc_ifr (s : State) (v : Word) : (s.setRawPc v).ifr = s.ifr := rfl
@[simp] theorem setRawPc_ime (s : State) (v : Word) : (s.setRawPc v).ime = s.ime := rfl
@[simp] theorem setRawPc_halted (s : State) (v : Word) : (s.setRawPc v).halted = s.halted := rfl
@[simp] theorem setRawPc_cycles (s : State) (v : Word) : (s.setRawPc v).cycles = s.cycles := rfl
@[simp] theorem setRawPc_mem (s : State) (v : Word) : (s.setRawPc v).mem = s.mem := rfl
@[simp] theorem setRawPc_cfg (s : State) (v : Word) : (s.setRawPc v).cfg = s.cfg := rfl
@[simp] theorem setRawPc_draws (s : State) (v : Word) : (s.setRawPc v).draws = s.draws := rfl
@[simp] theorem setRawPc_bus (s : State) (v : Word) : (s.setRawPc v).bus = s.bus := rfl

/-! ### `setCpsr` -/

@[simp] theorem setCpsr_regs (s : State) (v : Psr) : (s.setCpsr v).regs = s.regs := rfl
@[simp] theorem setCpsr_pc (s : State) (v : Psr) : (s.setCpsr v).pc = s.pc := rfl
@[simp] theorem setCpsr_cpsr (s : State) (v : Psr) : (s.setCpsr v).cpsr = v := rfl
@[simp] theorem setCpsr_spsr (s : State) (v : Psr) : (s.setCpsr v).spsr = s.spsr := rfl
@[simp] theorem setCpsr_ie (s : State) (v : Psr) : (s.setCpsr v).ie = s.ie := rfl
@[simp] theorem setCpsr_ifr (s : State) (v : Psr) : (s.setCpsr v).ifr = s.ifr := rfl
@[simp] theorem setCpsr_ime (s : State) (v : Psr) : (s.setCpsr v).ime = s.ime := rfl
@[simp] theorem setCpsr_halted (s : State) (v : Psr) : (s.setCpsr v).halted = s.halted := rfl
@[simp] theorem setCpsr_cycles (s : State) (v : Psr) : (s.setCpsr v).cycles = s.cycles := rfl
@[simp] theorem setCpsr_mem (s : State) (v : Psr) : (s.setCpsr v).mem = s.mem := rfl
@[simp] theorem setCpsr_cfg (s : State) (v : Psr) : (s.setCpsr v).cfg = s.cfg := rfl
@[simp] theorem setCpsr_draws (s : State) (v : Psr) : (s.setCpsr v).draws = s.draws := rfl
@[simp] theorem setCpsr_bus (s : State) (v : Psr) : (s.setCpsr v).bus = s.bus := rfl

/-! ### `setSpsrs` -/

@[simp] theorem setSpsrs_regs (s : State) (v : SpsrFile) : (s.setSpsrs v).regs = s.regs := rfl
@[simp] theorem setSpsrs_pc (s : State) (v : SpsrFile) : (s.setSpsrs v).pc = s.pc := rfl
@[simp] theorem setSpsrs_cpsr (s : State) (v : SpsrFile) : (s.setSpsrs v).cpsr = s.cpsr := rfl
@[simp] theorem setSpsrs_spsr (s : State) (v : SpsrFile) : (s.setSpsrs v).spsr = v := rfl
@[simp] theorem setSpsrs_ie (s : State) (v : SpsrFile) : (s.setSpsrs v).ie = s.ie := rfl
@[simp] theorem setSpsrs_ifr (s : State) (v : SpsrFile) : (s.setSpsrs v).ifr = s.ifr := rfl
@[simp] theorem setSpsrs_ime (s : State) (v : SpsrFile) : (s.setSpsrs v).ime = s.ime := rfl
@[simp] theorem setSpsrs_halted (s : State) (v : SpsrFile) : (s.setSpsrs v).halted = s.halted := rfl
@[simp] theorem setSpsrs_cycles (s : State) (v : SpsrFile) : (s.setSpsrs v).cycles = s.cycles := rfl
@[simp] theorem setSpsrs_mem (s : State) (v : SpsrFile) : (s.setSpsrs v).mem = s.mem := rfl
@[simp] theorem setSpsrs_cfg (s : State) (v : SpsrFile) : (s.setSpsrs v).cfg = s.cfg := rfl
@[simp] theorem setSpsrs_draws (s : State) (v : SpsrFile) : (s.setSpsrs v).draws = s.draws := rfl
@[simp] theorem setSpsrs_bus (s : State) (v : SpsrFile) : (s.setSpsrs v).bus = s.bus := rfl

/-! ### `setIe` -/

@[simp] theorem setIe_regs (s : State) (v : BitVec 14) : (s.setIe v).regs = s.regs := rfl
@[simp] theorem setIe_pc (s : State) (v : BitVec 14) : (s.setIe v).pc = s.pc := rfl
@[simp] theorem setIe_cpsr (s : State) (v : BitVec 14) : (s.setIe v).cpsr = s.cpsr := rfl
@[simp] theorem setIe_spsr (s : State) (v : BitVec 14) : (s.setIe v).spsr = s.spsr := rfl
@[simp] theorem setIe_ie (s : State) (v : BitVec 14) : (s.setIe v).ie = v := rfl
@[simp] theorem setIe_ifr (s : State) (v : BitVec 14) : (s.setIe v).ifr = s.ifr := rfl
@[simp] theorem setIe_ime (s : State) (v : BitVec 14) : (s.setIe v).ime = s.ime := rfl
@[simp] theorem setIe_halted (s : State) (v : BitVec 14) : (s.setIe v).halted = s.halted := rfl
@[simp] theorem setIe_cycles (s : State) (v : BitVec 14) : (s.setIe v).cycles = s.cycles := rfl
@[simp] theorem setIe_mem (s : State) (v : BitVec 14) : (s.setIe v).mem = s.mem := rfl
@[simp] theorem setIe_cfg (s : State) (v : BitVec 14) : (s.setIe v).cfg = s.cfg := rfl
@[simp] theorem setIe_draws (s : State) (v : BitVec 14) : (s.setIe v).draws = s.draws := rfl
@[simp] theorem setIe_bus (s : State) (v : BitVec 14) : (s.setIe v).bus = s.bus := rfl

/-! ### `setIfr` -/

@[simp] theorem setIfr_regs (s : State) (v : BitVec 14) : (s.setIfr v).regs = s.regs := rfl
@[simp] theorem setIfr_pc (s : State) (v : BitVec 14) : (s.setIfr v).pc = s.pc := rfl
@[simp] theorem setIfr_cpsr (s : State) (v : BitVec 14) : (s.setIfr v).cpsr = s.cpsr := rfl
@[simp] theorem setIfr_spsr (s : State) (v : BitVec 14) : (s.setIfr v).spsr = s.spsr := rfl
@[simp] theorem setIfr_ie (s : State) (v : BitVec 14) : (s.setIfr v).ie = s.ie := rfl
@[simp] theorem setIfr_ifr (s : State) (v : BitVec 14) : (s.setIfr v).ifr = v := rfl
@[simp] theorem setIfr_ime (s : State) (v : BitVec 14) : (s.setIfr v).ime = s.ime := rfl
@[simp] theorem setIfr_halted (s : State) (v : BitVec 14) : (s.setIfr v).halted = s.halted := rfl
@[simp] theorem setIfr_cycles (s : State) (v : BitVec 14) : (s.setIfr v).cycles = s.cycles := rfl
@[simp] theorem setIfr_mem (s : State) (v : BitVec 14) : (s.setIfr v).mem = s.mem := rfl
@[simp] theorem setIfr_cfg (s : State) (v : BitVec 14) : (s.setIfr v).cfg = s.cfg := rfl
@[simp] theorem setIfr_draws (s : State) (v : BitVec 14) : (s.setIfr v).draws = s.draws := rfl
@[simp] theorem setIfr_bus (s : State) (v : BitVec 14) : (s.setIfr v).bus = s.bus := rfl

/-! ### `setIme` -/

@[simp] theorem setIme_regs (s : State) (v : Bool) : (s.setIme v).regs = s.regs := rfl
@[simp] theorem setIme_pc (s : State) (v : Bool) : (s.setIme v).pc = s.pc := rfl
@[simp] theorem setIme_cpsr (s : State) (v : Bool) : (s.setIme v).cpsr = s.cpsr := rfl
@[simp] theorem setIme_spsr (s : State) (v : Bool) : (s.setIme v).spsr = s.spsr := rfl
@[simp] theorem setIme_ie (s : State) (v : Bool) : (s.setIme v).ie = s.ie := rfl
@[simp] theorem setIme_ifr (s : State) (v : Bool) : (s.setIme v).ifr = s.ifr := rfl
@[simp] theorem setIme_ime (s : State) (v : Bool) : (s.setIme v).ime = v := rfl
@[simp] theorem setIme_halted (s : State) (v : Bool) : (s.setIme v).halted = s.halted := rfl
@[simp] theorem setIme_cycles (s : State) (v : Bool) : (s.setIme v).cycles = s.cycles := rfl
@[simp] theorem setIme_mem (s : State) (v : Bool) : (s.setIme v).mem = s.mem := rfl
@[simp] theorem setIme_cfg (s : State) (v : Bool) : (s.setIme v).cfg = s.cfg := rfl
@[simp] theorem setIme_draws (s : State) (v : Bool) : (s.setIme v).draws = s.draws := rfl
@[simp] theorem setIme_bus (s : State) (v : Bool) : (s.setIme v).bus = s.bus := rfl

/-! ### `setHalted` -/

@[simp] theorem setHalted_regs (s : State) (v : Bool) : (s.setHalted v).regs = s.regs := rfl
@[simp] theorem setHalted_pc (s : State) (v : Bool) : (s.setHalted v).pc = s.pc := rfl
@[simp] theorem setHalted_cpsr (s : State) (v : Bool) : (s.setHalted v).cpsr = s.cpsr := rfl
@[simp] theorem setHalted_spsr (s : State) (v : Bool) : (s.setHalted v).spsr = s.spsr := rfl
@[simp] theorem setHalted_ie (s : State) (v : Bool) : (s.setHalted v).ie = s.ie := rfl
@[simp] theorem setHalted_ifr (s : State) (v : Bool) : (s.setHalted v).ifr = s.ifr := rfl
@[simp] theorem setHalted_ime (s : State) (v : Bool) : (s.setHalted v).ime = s.ime := rfl
@[simp] theorem setHalted_halted (s : State) (v : Bool) : (s.setHalted v).halted = v := rfl
@[simp] theorem setHalted_cycles (s : State) (v : Bool) : (s.setHalted v).cycles = s.cycles := rfl
@[simp] theorem setHalted_mem (s : State) (v : Bool) : (s.setHalted v).mem = s.mem := rfl
@[simp] theorem setHalted_cfg (s : State) (v : Bool) : (s.setHalted v).cfg = s.cfg := rfl
@[simp] theorem setHalted_draws (s : State) (v : Bool) : (s.setHalted v).draws = s.draws := rfl
@[simp] theorem setHalted_bus (s : State) (v : Bool) : (s.setHalted v).bus = s.bus := rfl

/-! ### `setCycles` -/

@[simp] theorem setCycles_regs (s : State) (v : Nat) : (s.setCycles v).regs = s.regs := rfl
@[simp] theorem setCycles_pc (s : State) (v : Nat) : (s.setCycles v).pc = s.pc := rfl
@[simp] theorem setCycles_cpsr (s : State) (v : Nat) : (s.setCycles v).cpsr = s.cpsr := rfl
@[simp] theorem setCycles_spsr (s : State) (v : Nat) : (s.setCycles v).spsr = s.spsr := rfl
@[simp] theorem setCycles_ie (s : State) (v : Nat) : (s.setCycles v).ie = s.ie := rfl
@[simp] theorem setCycles_ifr (s : State) (v : Nat) : (s.setCycles v).ifr = s.ifr := rfl
@[simp] theorem setCycles_ime (s : State) (v : Nat) : (s.setCycles v).ime = s.ime := rfl
@[simp] theorem setCycles_halted (s : State) (v : Nat) : (s.setCycles v).halted = s.halted := rfl
@[simp] theorem setCycles_cycles (s : State) (v : Nat) : (s.setCycles v).cycles = v := rfl
@[simp] theorem setCycles_mem (s : State) (v : Nat) : (s.setCycles v).mem = s.mem := rfl
@[simp] theorem setCycles_cfg (s : State) (v : Nat) : (s.setCycles v).cfg = s.cfg := rfl
@[simp] theorem setCycles_draws (s : State) (v : Nat) : (s.setCycles v).draws = s.draws := rfl
@[simp] theorem setCycles_bus (s : State) (v : Nat) : (s.setCycles v).bus = s.bus := rfl

/-! ### `setMem` -/

@[simp] theorem setMem_regs (s : State) (v : Memory) : (s.setMem v).regs = s.regs := rfl
@[simp] theorem setMem_pc (s : State) (v : Memory) : (s.setMem v).pc = s.pc := rfl
@[simp] theorem setMem_cpsr (s : State) (v : Memory) : (s.setMem v).cpsr = s.cpsr := rfl
@[simp] theorem setMem_spsr (s : State) (v : Memory) : (s.setMem v).spsr = s.spsr := rfl
@[simp] theorem setMem_ie (s : State) (v : Memory) : (s.setMem v).ie = s.ie := rfl
@[simp] theorem setMem_ifr (s : State) (v : Memory) : (s.setMem v).ifr = s.ifr := rfl
@[simp] theorem setMem_ime (s : State) (v : Memory) : (s.setMem v).ime = s.ime := rfl
@[simp] theorem setMem_halted (s : State) (v : Memory) : (s.setMem v).halted = s.halted := rfl
@[simp] theorem setMem_cycles (s : State) (v : Memory) : (s.setMem v).cycles = s.cycles := rfl
@[simp] theorem setMem_mem (s : State) (v : Memory) : (s.setMem v).mem = v := rfl
@[simp] theorem setMem_cfg (s : State) (v : Memory) : (s.setMem v).cfg = s.cfg := rfl
@[simp] theorem setMem_draws (s : State) (v : Memory) : (s.setMem v).draws = s.draws := rfl
@[simp] theorem setMem_bus (s : State) (v : Memory) : (s.setMem v).bus = s.bus := rfl

/-! ### `setCfg` -/

@[simp] theorem setCfg_regs (s : State) (v : Config) : (s.setCfg v).regs = s.regs := rfl
@[simp] theorem setCfg_pc (s : State) (v : Config) : (s.setCfg v).pc = s.pc := rfl
@[simp] theorem setCfg_cpsr (s : State) (v : Config) : (s.setCfg v).cpsr = s.cpsr := rfl
@[simp] theorem setCfg_spsr (s : State) (v : Config) : (s.setCfg v).spsr = s.spsr := rfl
@[simp] theorem setCfg_ie (s : State) (v : Config) : (s.setCfg v).ie = s.ie := rfl
@[simp] theorem setCfg_ifr (s : State) (v : Config) : (s.setCfg v).ifr = s.ifr := rfl
@[simp] theorem setCfg_ime (s : State) (v : Config) : (s.setCfg v).ime = s.ime := rfl
@[simp] theorem setCfg_halted (s : State) (v : Config) : (s.setCfg v).halted = s.halted := rfl
@[simp] theorem setCfg_cycles (s : State) (v : Config) : (s.setCfg v).cycles = s.cycles := rfl
@[simp] theorem setCfg_mem (s : State) (v : Config) : (s.setCfg v).mem = s.mem := rfl
@[simp] theorem setCfg_cfg (s : State) (v : Config) : (s.setCfg v).cfg = v := rfl
@[simp] theorem setCfg_draws (s : State) (v : Config) : (s.setCfg v).draws = s.draws := rfl
@[simp] theorem setCfg_bus (s : State) (v : Config) : (s.setCfg v).bus = s.bus := rfl

/-! ### `setDraws` -/

@[simp] theorem setDraws_regs (s : State) (v : Nat) : (s.setDraws v).regs = s.regs := rfl
@[simp] theorem setDraws_pc (s : State) (v : Nat) : (s.setDraws v).pc = s.pc := rfl
@[simp] theorem setDraws_cpsr (s : State) (v : Nat) : (s.setDraws v).cpsr = s.cpsr := rfl
@[simp] theorem setDraws_spsr (s : State) (v : Nat) : (s.setDraws v).spsr = s.spsr := rfl
@[simp] theorem setDraws_ie (s : State) (v : Nat) : (s.setDraws v).ie = s.ie := rfl
@[simp] theorem setDraws_ifr (s : State) (v : Nat) : (s.setDraws v).ifr = s.ifr := rfl
@[simp] theorem setDraws_ime (s : State) (v : Nat) : (s.setDraws v).ime = s.ime := rfl
@[simp] theorem setDraws_halted (s : State) (v : Nat) : (s.setDraws v).halted = s.halted := rfl
@[simp] theorem setDraws_cycles (s : State) (v : Nat) : (s.setDraws v).cycles = s.cycles := rfl
@[simp] theorem setDraws_mem (s : State) (v : Nat) : (s.setDraws v).mem = s.mem := rfl
@[simp] theorem setDraws_cfg (s : State) (v : Nat) : (s.setDraws v).cfg = s.cfg := rfl
@[simp] theorem setDraws_draws (s : State) (v : Nat) : (s.setDraws v).draws = v := rfl
@[simp] theorem setDraws_bus (s : State) (v : Nat) : (s.setDraws v).bus = s.bus := rfl

/-! ### `setBus` -/

@[simp] theorem setBus_regs (s : State) (v : List BusEvent) : (s.setBus v).regs = s.regs := rfl
@[simp] theorem setBus_pc (s : State) (v : List BusEvent) : (s.setBus v).pc = s.pc := rfl
@[simp] theorem setBus_cpsr (s : State) (v : List BusEvent) : (s.setBus v).cpsr = s.cpsr := rfl
@[simp] theorem setBus_spsr (s : State) (v : List BusEvent) : (s.setBus v).spsr = s.spsr := rfl
@[simp] theorem setBus_ie (s : State) (v : List BusEvent) : (s.setBus v).ie = s.ie := rfl
@[simp] theorem setBus_ifr (s : State) (v : List BusEvent) : (s.setBus v).ifr = s.ifr := rfl
@[simp] theorem setBus_ime (s : State) (v : List BusEvent) : (s.setBus v).ime = s.ime := rfl
@[simp] theorem setBus_halted (s : State) (v : List BusEvent) : (s.setBus v).halted = s.halted := rfl
@[simp] theorem setBus_cycles (s : State) (v : List BusEvent) : (s.setBus v).cycles = s.cycles := rfl
@[simp] theorem setBus_mem (s : State) (v : List BusEvent) : (s.setBus v).mem = s.mem := rfl
@[simp] theorem setBus_cfg (s : State) (v : List BusEvent) : (s.setBus v).cfg = s.cfg := rfl
@[simp] theorem setBus_draws (s : State) (v : List BusEvent) : (s.setBus v).draws = s.draws := rfl
@[simp] theorem setBus_bus (s : State) (v : List BusEvent) : (s.setBus v).bus = v := rfl

/-! ### `addCycles` -/

@[simp] theorem addCycles_regs (s : State) (n : Nat) : (s.addCycles n).regs = s.regs := rfl
@[simp] theorem addCycles_pc (s : State) (n : Nat) : (s.addCycles n).pc = s.pc := rfl
@[simp] theorem addCycles_cpsr (s : State) (n : Nat) : (s.addCycles n).cpsr = s.cpsr := rfl
@[simp] theorem addCycles_spsr (s : State) (n : Nat) : (s.addCycles n).spsr = s.spsr := rfl
@[simp] theorem addCycles_ie (s : State) (n : Nat) : (s.addCycles n).ie = s.ie := rfl
@[simp] theorem addCycles_ifr (s : State) (n : Nat) : (s.addCycles n).ifr = s.ifr := rfl
@[simp] theorem addCycles_ime (s : State) (n : Nat) : (s.addCycles n).ime = s.ime := rfl
@[simp] theorem addCycles_halted (s : State) (n : Nat) : (s.addCycles n).halted = s.halted := rfl
@[simp] theorem addCycles_cycles (s : State) (n : Nat) : (s.addCycles n).cycles = s.cycles + n := rfl
@[simp] theorem addCycles_mem (s : State) (n : Nat) : (s.addCycles n).mem = s.mem := rfl
@[simp] theorem addCycles_cfg (s : State) (n : Nat) : (s.addCycles n).cfg = s.cfg := rfl
@[simp] theorem addCycles_draws (s : State) (n : Nat) : (s.addCycles n).draws = s.draws := rfl
@[simp] theorem addCycles_bus (s : State) (n : Nat) : (s.addCycles n).bus = s.bus := rfl

/-! ### `bumpDraws` -/

@[simp] theorem bumpDraws_regs (s : State) : (s.bumpDraws).regs = s.regs := rfl
@[simp] theorem bumpDraws_pc (s : State) : (s.bumpDraws).pc = s.pc := rfl
@[simp] theorem bumpDraws_cpsr (s : State) : (s.bumpDraws).cpsr = s.cpsr := rfl
@[simp] theorem bumpDraws_spsr (s : State) : (s.bumpDraws).spsr = s.spsr := rfl
@[simp] theorem bumpDraws_ie (s : State) : (s.bumpDraws).ie = s.ie := rfl
@[simp] theorem bumpDraws_ifr (s : State) : (s.bumpDraws).ifr = s.ifr := rfl
@[simp] theorem bumpDraws_ime (s : State) : (s.bumpDraws).ime = s.ime := rfl
@[simp] theorem bumpDraws_halted (s : State) : (s.bumpDraws).halted = s.halted := rfl
@[simp] theorem bumpDraws_cycles (s : State) : (s.bumpDraws).cycles = s.cycles := rfl
@[simp] theorem bumpDraws_mem (s : State) : (s.bumpDraws).mem = s.mem := rfl
@[simp] theorem bumpDraws_cfg (s : State) : (s.bumpDraws).cfg = s.cfg := rfl
@[simp] theorem bumpDraws_draws (s : State) : (s.bumpDraws).draws = s.draws + 1 := rfl
@[simp] theorem bumpDraws_bus (s : State) : (s.bumpDraws).bus = s.bus := rfl

/-! ### `branchTo` -/

@[simp] theorem branchTo_regs (s : State) (v : Word) : (s.branchTo v).regs = s.regs := rfl
@[simp] theorem branchTo_pc (s : State) (v : Word) : (s.branchTo v).pc = alignPc s.cpsr.t v := rfl
@[simp] theorem branchTo_cpsr (s : State) (v : Word) : (s.branchTo v).cpsr = s.cpsr := rfl
@[simp] theorem branchTo_spsr (s : State) (v : Word) : (s.branchTo v).spsr = s.spsr := rfl
@[simp] theorem branchTo_ie (s : State) (v : Word) : (s.branchTo v).ie = s.ie := rfl
@[simp] theorem branchTo_ifr (s : State) (v : Word) : (s.branchTo v).ifr = s.ifr := rfl
@[simp] theorem branchTo_ime (s : State) (v : Word) : (s.branchTo v).ime = s.ime := rfl
@[simp] theorem branchTo_halted (s : State) (v : Word) : (s.branchTo v).halted = s.halted := rfl
@[simp] theorem branchTo_cycles (s : State) (v : Word) : (s.branchTo v).cycles = s.cycles := rfl
@[simp] theorem branchTo_mem (s : State) (v : Word) : (s.branchTo v).mem = s.mem := rfl
@[simp] theorem branchTo_cfg (s : State) (v : Word) : (s.branchTo v).cfg = s.cfg := rfl
@[simp] theorem branchTo_draws (s : State) (v : Word) : (s.branchTo v).draws = s.draws := rfl
@[simp] theorem branchTo_bus (s : State) (v : Word) : (s.branchTo v).bus = s.bus := rfl

/-! ### `requestMask` -/

@[simp] theorem requestMask_regs (s : State) (x : BitVec 14) : (s.requestMask x).regs = s.regs := rfl
@[simp] theorem requestMask_pc (s : State) (x : BitVec 14) : (s.requestMask x).pc = s.pc := rfl
@[simp] theorem requestMask_cpsr (s : State) (x : BitVec 14) : (s.requestMask x).cpsr = s.cpsr := rfl
@[simp] theorem requestMask_spsr (s : State) (x : BitVec 14) : (s.requestMask x).spsr = s.spsr := rfl
@[simp] theorem requestMask_ie (s : State) (x : BitVec 14) : (s.requestMask x).ie = s.ie := rfl
@[simp] theorem requestMask_ifr (s : State) (x : BitVec 14) : (s.requestMask x).ifr = s.ifr ||| x := rfl
@[simp] theorem requestMask_ime (s : State) (x : BitVec 14) : (s.requestMask x).ime = s.ime := rfl
@[simp] theorem requestMask_halted (s : State) (x : BitVec 14) : (s.requestMask x).halted = (s.halted && (s.ie &&& x) == 0) := rfl
@[simp] theorem requestMask_cycles (s : State) (x : BitVec 14) : (s.requestMask x).cycles = s.cycles := rfl
@[simp] theorem requestMask_mem (s : State) (x : BitVec 14) : (s.requestMask x).mem = s.mem := rfl
@[simp] theorem requestMask_cfg (s : State) (x : BitVec 14) : (s.requestMask x).cfg = s.cfg := rfl
@[simp] theorem requestMask_draws (s : State) (x : BitVec 14) : (s.requestMask x).draws = s.draws := rfl
@[simp] theorem requestMask_bus (s : State) (x : BitVec 14) : (s.requestMask x).bus = s.bus := rfl

end Sys2Proof.Machine
end

