-- ==== Sys2Proof/Laws/Registers.lean ====
section
/-! SUPPORT. The laws of the general registers (R23, R24): what a register write changes, and that nothing else does. -/

namespace Sys2Proof.Machine

open Sys2Proof

/-! ### The copies of r13 and r14 -/

@[simp] theorem Banked.get_set_same (r : Banked) (b : Bank) (v : Word) : (r.set b v).get b = v := by cases b <;> rfl

theorem Banked.get_set_other (r : Banked) {b b' : Bank} (v : Word) (h : b' ≠ b) : (r.set b v).get b' = r.get b' := by
  cases b <;> cases b' <;> first | rfl | exact absurd rfl h

/-! ### Writing a physical register -/

/-- A physical register that is not r15 holds what is written to it. -/
theorem phys_setPhys_same (s : State) {p : PhysReg} (v : Word) (h : p ≠ .pc) : (s.setPhys p v).phys p = v := by
  cases p with
  | low i => simp [State.setPhys, State.phys]
  | mid i => simp [State.setPhys, State.phys]
  | midFiq i => simp [State.setPhys, State.phys]
  | sp b => simp [State.setPhys, State.phys]
  | lr b => simp [State.setPhys, State.phys]
  | pc => exact absurd rfl h

/-- Writing r15 masks the value (R29). -/
@[simp] theorem phys_setPhys_pc (s : State) (v : Word) : (s.setPhys .pc v).phys .pc = alignPc s.cpsr.t v := rfl

/-- Every other physical register keeps its value (R23). -/
theorem phys_setPhys_other (s : State) {p q : PhysReg} (v : Word) (h : q ≠ p) : (s.setPhys p v).phys q = s.phys q := by
  cases p <;> cases q <;>
    first
    | rfl
    | (rename_i i j
       have hne : i ≠ j := fun e => h (by rw [e])
       have hv : i.val ≠ j.val := fun e => hne (Fin.ext e)
       simp [State.setPhys, State.phys, hv])
    | (rename_i i j
       exact Banked.get_set_other _ _ fun e => h (by rw [e]))
    | exact absurd rfl h

/-- Reading after a write of a register other than r15, in one equation. -/
theorem phys_setPhys (s : State) {p : PhysReg} (q : PhysReg) (v : Word) (h : p ≠ .pc) :
    (s.setPhys p v).phys q = if q = p then v else s.phys q := by
  split
  · subst_vars; exact phys_setPhys_same s v h
  · exact phys_setPhys_other s v ‹_›

/-- The program counter after a write of another register. -/
theorem setPhys_pc_of_ne (s : State) {p : PhysReg} (v : Word) (h : p ≠ .pc) : (s.setPhys p v).pc = s.pc := by
  cases p <;> first | rfl | exact absurd rfl h

@[simp] theorem setPhys_cpsr (s : State) (p : PhysReg) (v : Word) : (s.setPhys p v).cpsr = s.cpsr := by
  cases p <;> rfl

@[simp] theorem setPhys_spsr (s : State) (p : PhysReg) (v : Word) : (s.setPhys p v).spsr = s.spsr := by
  cases p <;> rfl

@[simp] theorem setPhys_ie (s : State) (p : PhysReg) (v : Word) : (s.setPhys p v).ie = s.ie := by
  cases p <;> rfl

@[simp] theorem setPhys_ifr (s : State) (p : PhysReg) (v : Word) : (s.setPhys p v).ifr = s.ifr := by
  cases p <;> rfl

@[simp] theorem setPhys_ime (s : State) (p : PhysReg) (v : Word) : (s.setPhys p v).ime = s.ime := by
  cases p <;> rfl

@[simp] theorem setPhys_halted (s : State) (p : PhysReg) (v : Word) : (s.setPhys p v).halted = s.halted := by
  cases p <;> rfl

@[simp] theorem setPhys_cycles (s : State) (p : PhysReg) (v : Word) : (s.setPhys p v).cycles = s.cycles := by
  cases p <;> rfl

@[simp] theorem setPhys_mem (s : State) (p : PhysReg) (v : Word) : (s.setPhys p v).mem = s.mem := by
  cases p <;> rfl

@[simp] theorem setPhys_cfg (s : State) (p : PhysReg) (v : Word) : (s.setPhys p v).cfg = s.cfg := by
  cases p <;> rfl

@[simp] theorem setPhys_draws (s : State) (p : PhysReg) (v : Word) : (s.setPhys p v).draws = s.draws := by
  cases p <;> rfl

@[simp] theorem setPhys_bus (s : State) (p : PhysReg) (v : Word) : (s.setPhys p v).bus = s.bus := by
  cases p <;> rfl

/-! ### Writing by number -/

@[simp] theorem setReg_cpsr (s : State) (i : Reg) (v : Word) : (s.setReg i v).cpsr = s.cpsr := setPhys_cpsr _ _ _
@[simp] theorem setReg_spsr (s : State) (i : Reg) (v : Word) : (s.setReg i v).spsr = s.spsr := setPhys_spsr _ _ _
@[simp] theorem setReg_ie (s : State) (i : Reg) (v : Word) : (s.setReg i v).ie = s.ie := setPhys_ie _ _ _
@[simp] theorem setReg_ifr (s : State) (i : Reg) (v : Word) : (s.setReg i v).ifr = s.ifr := setPhys_ifr _ _ _
@[simp] theorem setReg_ime (s : State) (i : Reg) (v : Word) : (s.setReg i v).ime = s.ime := setPhys_ime _ _ _
@[simp] theorem setReg_halted (s : State) (i : Reg) (v : Word) : (s.setReg i v).halted = s.halted := setPhys_halted _ _ _
@[simp] theorem setReg_cycles (s : State) (i : Reg) (v : Word) : (s.setReg i v).cycles = s.cycles := setPhys_cycles _ _ _
@[simp] theorem setReg_mem (s : State) (i : Reg) (v : Word) : (s.setReg i v).mem = s.mem := setPhys_mem _ _ _
@[simp] theorem setReg_cfg (s : State) (i : Reg) (v : Word) : (s.setReg i v).cfg = s.cfg := setPhys_cfg _ _ _
@[simp] theorem setReg_draws (s : State) (i : Reg) (v : Word) : (s.setReg i v).draws = s.draws := setPhys_draws _ _ _
@[simp] theorem setReg_bus (s : State) (i : Reg) (v : Word) : (s.setReg i v).bus = s.bus := setPhys_bus _ _ _

@[simp] theorem setUsrReg_cpsr (s : State) (i : Reg) (v : Word) : (s.setUsrReg i v).cpsr = s.cpsr := setPhys_cpsr _ _ _
@[simp] theorem setUsrReg_spsr (s : State) (i : Reg) (v : Word) : (s.setUsrReg i v).spsr = s.spsr := setPhys_spsr _ _ _
@[simp] theorem setUsrReg_ie (s : State) (i : Reg) (v : Word) : (s.setUsrReg i v).ie = s.ie := setPhys_ie _ _ _
@[simp] theorem setUsrReg_ifr (s : State) (i : Reg) (v : Word) : (s.setUsrReg i v).ifr = s.ifr := setPhys_ifr _ _ _
@[simp] theorem setUsrReg_ime (s : State) (i : Reg) (v : Word) : (s.setUsrReg i v).ime = s.ime := setPhys_ime _ _ _
@[simp] theorem setUsrReg_halted (s : State) (i : Reg) (v : Word) : (s.setUsrReg i v).halted = s.halted := setPhys_halted _ _ _
@[simp] theorem setUsrReg_cycles (s : State) (i : Reg) (v : Word) : (s.setUsrReg i v).cycles = s.cycles := setPhys_cycles _ _ _
@[simp] theorem setUsrReg_mem (s : State) (i : Reg) (v : Word) : (s.setUsrReg i v).mem = s.mem := setPhys_mem _ _ _
@[simp] theorem setUsrReg_cfg (s : State) (i : Reg) (v : Word) : (s.setUsrReg i v).cfg = s.cfg := setPhys_cfg _ _ _
@[simp] theorem setUsrReg_draws (s : State) (i : Reg) (v : Word) : (s.setUsrReg i v).draws = s.draws := setPhys_draws _ _ _
@[simp] theorem setUsrReg_bus (s : State) (i : Reg) (v : Word) : (s.setUsrReg i v).bus = s.bus := setPhys_bus _ _ _

/-! ### The active view -/

/-- The number by which a physical register is named. -/
def PhysReg.number : PhysReg → Nat
  | .low i => i.val
  | .mid i => i.val + 8
  | .midFiq i => i.val + 8
  | .sp _ => 13
  | .lr _ => 14
  | .pc => 15

/-- The active view keeps the number (R24). -/
@[simp] theorem number_physOf (m : BitVec 5) (i : Reg) : (physOf m i).number = i.val := by
  unfold physOf
  split
  · rfl
  · split
    · split <;> (simp only [PhysReg.number]; omega)
    · split
      · subst_vars; rfl
      · split
        · subst_vars; rfl
        · rename_i h1 h2 h3 h4
          have h5 : i.val ≠ 13 := fun h => h3 (Fin.ext h)
          have h6 : i.val ≠ 14 := fun h => h4 (Fin.ext h)
          show 15 = i.val
          omega

/-- Under one mode two numbers name two registers (R24). -/
theorem physOf_inj {m : BitVec 5} {i j : Reg} : physOf m i = physOf m j ↔ i = j :=
  ⟨fun h => Fin.ext (by simpa using congrArg PhysReg.number h), fun h => by rw [h]⟩

/-- Only number 15 names the program counter (R24). -/
theorem physOf_eq_pc {m : BitVec 5} {i : Reg} : physOf m i = .pc ↔ i = 15 :=
  physOf_inj (m := m) (j := 15)

@[simp] theorem physOf_15 (m : BitVec 5) : physOf m 15 = .pc := rfl

theorem physOf_ne_pc {m : BitVec 5} {i : Reg} (h : i ≠ 15) : physOf m i ≠ .pc := fun e => h (physOf_eq_pc.1 e)

/-- A low register is the same under every mode. -/
theorem physOf_toReg (m : BitVec 5) (r : LowReg) : physOf m r.toReg = .low r := by
  simp [physOf, LowReg.toReg, r.isLt]

/-- A low register is not r15. -/
theorem toReg_ne_15 (r : LowReg) : r.toReg ≠ 15 := by
  intro h
  have := congrArg Fin.val h
  simp [LowReg.toReg] at this
  omega

/-- Reading a register other than r15 is reading its physical register. -/
theorem rdOp_of_ne (s : State) (f : Form) {i : Reg} (h : i ≠ 15) : s.rdOp f i = s.reg i := by simp [State.rdOp, h]

@[simp] theorem rdOp_15 (s : State) (f : Form) : s.rdOp f 15 = s.pc + f.pipe := rfl

/-! ### The registers under the other updates -/

@[simp] theorem phys_setCpsr (s : State) (v : Psr) (p : PhysReg) : (s.setCpsr v).phys p = s.phys p := by
  cases p <;> rfl

@[simp] theorem phys_setSpsrs (s : State) (v : SpsrFile) (p : PhysReg) : (s.setSpsrs v).phys p = s.phys p := by
  cases p <;> rfl

@[simp] theorem phys_setIe (s : State) (v : BitVec 14) (p : PhysReg) : (s.setIe v).phys p = s.phys p := by
  cases p <;> rfl

@[simp] theorem phys_setIfr (s : State) (v : BitVec 14) (p : PhysReg) : (s.setIfr v).phys p = s.phys p := by
  cases p <;> rfl

@[simp] theorem phys_setIme (s : State) (v : Bool) (p : PhysReg) : (s.setIme v).phys p = s.phys p := by
  cases p <;> rfl

@[simp] theorem phys_setHalted (s : State) (v : Bool) (p : PhysReg) : (s.setHalted v).phys p = s.phys p := by
  cases p <;> rfl

@[simp] theorem phys_setCycles (s : State) (v : Nat) (p : PhysReg) : (s.setCycles v).phys p = s.phys p := by
  cases p <;> rfl

@[simp] theorem phys_setMem (s : State) (v : Memory) (p : PhysReg) : (s.setMem v).phys p = s.phys p := by
  cases p <;> rfl

@[simp] theorem phys_setCfg (s : State) (v : Config) (p : PhysReg) : (s.setCfg v).phys p = s.phys p := by
  cases p <;> rfl

@[simp] theorem phys_setDraws (s : State) (v : Nat) (p : PhysReg) : (s.setDraws v).phys p = s.phys p := by
  cases p <;> rfl

@[simp] theorem phys_setBus (s : State) (v : List BusEvent) (p : PhysReg) : (s.setBus v).phys p = s.phys p := by
  cases p <;> rfl

@[simp] theorem phys_addCycles (s : State) (n : Nat) (p : PhysReg) : (s.addCycles n).phys p = s.phys p := by
  cases p <;> rfl

@[simp] theorem phys_bumpDraws (s : State) (p : PhysReg) : s.bumpDraws.phys p = s.phys p := by cases p <;> rfl

@[simp] theorem phys_setRawPc (s : State) (v : Word) (p : PhysReg) :
    (s.setRawPc v).phys p = if p = .pc then v else s.phys p := by
  cases p <;> rfl

@[simp] theorem phys_branchTo (s : State) (v : Word) (p : PhysReg) :
    (s.branchTo v).phys p = if p = .pc then alignPc s.cpsr.t v else s.phys p := by
  cases p <;> rfl

@[simp] theorem phys_requestMask (s : State) (x : BitVec 14) (p : PhysReg) : (s.requestMask x).phys p = s.phys p := by
  cases p <;> rfl

/-- The registers depend on two fields of the state only. -/
theorem phys_congr {s t : State} (hr : t.regs = s.regs) (hp : t.pc = s.pc) (p : PhysReg) : t.phys p = s.phys p := by
  cases p <;> simp [State.phys, hr, hp]

/-! ### The alignment of the program counter (R29) -/

theorem alignPc_idem (t : Bool) (v : Word) : alignPc t (alignPc t v) = alignPc t v := by
  cases t <;> simp [alignPc, BitVec.and_assoc]

end Sys2Proof.Machine
end

