-- ==== Sys2Proof/Laws/Bus.lean ====
section
/-! SUPPORT. The laws of the bus (20_memory.md): what a read and what a write of bytes, of values and of runs of words can change, that
every one of them keeps the memory canonical, and where a store lands. -/

namespace Sys2Proof.Machine

open Sys2Proof

/-! ### Regions -/

/-- The kind of an address depends on the parameters only. -/
theorem kind_congr {s t : State} (h : t.cfg = s.cfg) (p : Word) : t.kind p = s.kind p := by
  simp [State.kind, h]

/-! ### Reads -/

/-- A read outside DEVICE regions has no side effect (R76). -/
theorem byteRead_state (s : State) (p : Word) (h : s.kind p ≠ .device) : (s.byteRead p).2 = s := by
  unfold State.byteRead
  split <;> first | rfl | exact absurd (by assumption) h

@[simp] theorem byteRead_regs (s : State) (p : Word) : (s.byteRead p).2.regs = s.regs := by
  unfold State.byteRead; split <;> rfl

@[simp] theorem byteRead_pc (s : State) (p : Word) : (s.byteRead p).2.pc = s.pc := by
  unfold State.byteRead; split <;> rfl

@[simp] theorem byteRead_cpsr (s : State) (p : Word) : (s.byteRead p).2.cpsr = s.cpsr := by
  unfold State.byteRead; split <;> rfl

@[simp] theorem byteRead_spsr (s : State) (p : Word) : (s.byteRead p).2.spsr = s.spsr := by
  unfold State.byteRead; split <;> rfl

@[simp] theorem byteRead_ie (s : State) (p : Word) : (s.byteRead p).2.ie = s.ie := by
  unfold State.byteRead; split <;> rfl

@[simp] theorem byteRead_ifr (s : State) (p : Word) : (s.byteRead p).2.ifr = s.ifr := by
  unfold State.byteRead; split <;> rfl

@[simp] theorem byteRead_ime (s : State) (p : Word) : (s.byteRead p).2.ime = s.ime := by
  unfold State.byteRead; split <;> rfl

@[simp] theorem byteRead_halted (s : State) (p : Word) : (s.byteRead p).2.halted = s.halted := by
  unfold State.byteRead; split <;> rfl

@[simp] theorem byteRead_cycles (s : State) (p : Word) : (s.byteRead p).2.cycles = s.cycles := by
  unfold State.byteRead; split <;> rfl

@[simp] theorem byteRead_mem (s : State) (p : Word) : (s.byteRead p).2.mem = s.mem := by
  unfold State.byteRead; split <;> rfl

@[simp] theorem byteRead_cfg (s : State) (p : Word) : (s.byteRead p).2.cfg = s.cfg := by
  unfold State.byteRead; split <;> rfl

@[simp] theorem readBytes_regs (s : State) (p : Word) (n : Nat) : (s.readBytes p n).2.regs = s.regs := by
  induction n generalizing s p with
  | zero => rfl
  | succ n ih => simp [State.readBytes, ih]

@[simp] theorem readBytes_pc (s : State) (p : Word) (n : Nat) : (s.readBytes p n).2.pc = s.pc := by
  induction n generalizing s p with
  | zero => rfl
  | succ n ih => simp [State.readBytes, ih]

@[simp] theorem readBytes_cpsr (s : State) (p : Word) (n : Nat) : (s.readBytes p n).2.cpsr = s.cpsr := by
  induction n generalizing s p with
  | zero => rfl
  | succ n ih => simp [State.readBytes, ih]

@[simp] theorem readBytes_spsr (s : State) (p : Word) (n : Nat) : (s.readBytes p n).2.spsr = s.spsr := by
  induction n generalizing s p with
  | zero => rfl
  | succ n ih => simp [State.readBytes, ih]

@[simp] theorem readBytes_ie (s : State) (p : Word) (n : Nat) : (s.readBytes p n).2.ie = s.ie := by
  induction n generalizing s p with
  | zero => rfl
  | succ n ih => simp [State.readBytes, ih]

@[simp] theorem readBytes_ifr (s : State) (p : Word) (n : Nat) : (s.readBytes p n).2.ifr = s.ifr := by
  induction n generalizing s p with
  | zero => rfl
  | succ n ih => simp [State.readBytes, ih]

@[simp] theorem readBytes_ime (s : State) (p : Word) (n : Nat) : (s.readBytes p n).2.ime = s.ime := by
  induction n generalizing s p with
  | zero => rfl
  | succ n ih => simp [State.readBytes, ih]

@[simp] theorem readBytes_halted (s : State) (p : Word) (n : Nat) : (s.readBytes p n).2.halted = s.halted := by
  induction n generalizing s p with
  | zero => rfl
  | succ n ih => simp [State.readBytes, ih]

@[simp] theorem readBytes_cycles (s : State) (p : Word) (n : Nat) : (s.readBytes p n).2.cycles = s.cycles := by
  induction n generalizing s p with
  | zero => rfl
  | succ n ih => simp [State.readBytes, ih]

@[simp] theorem readBytes_mem (s : State) (p : Word) (n : Nat) : (s.readBytes p n).2.mem = s.mem := by
  induction n generalizing s p with
  | zero => rfl
  | succ n ih => simp [State.readBytes, ih]

@[simp] theorem readBytes_cfg (s : State) (p : Word) (n : Nat) : (s.readBytes p n).2.cfg = s.cfg := by
  induction n generalizing s p with
  | zero => rfl
  | succ n ih => simp [State.readBytes, ih]

@[simp] theorem memRead_regs (s : State) (w : Width) (a : Word) : (s.memRead w a).2.regs = s.regs := readBytes_regs _ _ _

@[simp] theorem memRead_pc (s : State) (w : Width) (a : Word) : (s.memRead w a).2.pc = s.pc := readBytes_pc _ _ _

@[simp] theorem memRead_cpsr (s : State) (w : Width) (a : Word) : (s.memRead w a).2.cpsr = s.cpsr := readBytes_cpsr _ _ _

@[simp] theorem memRead_spsr (s : State) (w : Width) (a : Word) : (s.memRead w a).2.spsr = s.spsr := readBytes_spsr _ _ _

@[simp] theorem memRead_ie (s : State) (w : Width) (a : Word) : (s.memRead w a).2.ie = s.ie := readBytes_ie _ _ _

@[simp] theorem memRead_ifr (s : State) (w : Width) (a : Word) : (s.memRead w a).2.ifr = s.ifr := readBytes_ifr _ _ _

@[simp] theorem memRead_ime (s : State) (w : Width) (a : Word) : (s.memRead w a).2.ime = s.ime := readBytes_ime _ _ _

@[simp] theorem memRead_halted (s : State) (w : Width) (a : Word) : (s.memRead w a).2.halted = s.halted := readBytes_halted _ _ _

@[simp] theorem memRead_cycles (s : State) (w : Width) (a : Word) : (s.memRead w a).2.cycles = s.cycles := readBytes_cycles _ _ _

@[simp] theorem memRead_mem (s : State) (w : Width) (a : Word) : (s.memRead w a).2.mem = s.mem := readBytes_mem _ _ _

@[simp] theorem memRead_cfg (s : State) (w : Width) (a : Word) : (s.memRead w a).2.cfg = s.cfg := readBytes_cfg _ _ _

@[simp] theorem load_regs (s : State) (k : LoadKind) (a : Word) : (s.load k a).2.regs = s.regs := by
  unfold State.load; split
  · cases k <;> exact memRead_regs _ _ _
  · exact memRead_regs _ _ _

@[simp] theorem load_pc (s : State) (k : LoadKind) (a : Word) : (s.load k a).2.pc = s.pc := by
  unfold State.load; split
  · cases k <;> exact memRead_pc _ _ _
  · exact memRead_pc _ _ _

@[simp] theorem load_cpsr (s : State) (k : LoadKind) (a : Word) : (s.load k a).2.cpsr = s.cpsr := by
  unfold State.load; split
  · cases k <;> exact memRead_cpsr _ _ _
  · exact memRead_cpsr _ _ _

@[simp] theorem load_spsr (s : State) (k : LoadKind) (a : Word) : (s.load k a).2.spsr = s.spsr := by
  unfold State.load; split
  · cases k <;> exact memRead_spsr _ _ _
  · exact memRead_spsr _ _ _

@[simp] theorem load_ie (s : State) (k : LoadKind) (a : Word) : (s.load k a).2.ie = s.ie := by
  unfold State.load; split
  · cases k <;> exact memRead_ie _ _ _
  · exact memRead_ie _ _ _

@[simp] theorem load_ifr (s : State) (k : LoadKind) (a : Word) : (s.load k a).2.ifr = s.ifr := by
  unfold State.load; split
  · cases k <;> exact memRead_ifr _ _ _
  · exact memRead_ifr _ _ _

@[simp] theorem load_ime (s : State) (k : LoadKind) (a : Word) : (s.load k a).2.ime = s.ime := by
  unfold State.load; split
  · cases k <;> exact memRead_ime _ _ _
  · exact memRead_ime _ _ _

@[simp] theorem load_halted (s : State) (k : LoadKind) (a : Word) : (s.load k a).2.halted = s.halted := by
  unfold State.load; split
  · cases k <;> exact memRead_halted _ _ _
  · exact memRead_halted _ _ _

@[simp] theorem load_cycles (s : State) (k : LoadKind) (a : Word) : (s.load k a).2.cycles = s.cycles := by
  unfold State.load; split
  · cases k <;> exact memRead_cycles _ _ _
  · exact memRead_cycles _ _ _

@[simp] theorem load_mem (s : State) (k : LoadKind) (a : Word) : (s.load k a).2.mem = s.mem := by
  unfold State.load; split
  · cases k <;> exact memRead_mem _ _ _
  · exact memRead_mem _ _ _

@[simp] theorem load_cfg (s : State) (k : LoadKind) (a : Word) : (s.load k a).2.cfg = s.cfg := by
  unfold State.load; split
  · cases k <;> exact memRead_cfg _ _ _
  · exact memRead_cfg _ _ _

@[simp] theorem readWords_regs (s : State) (a : Word) (n : Nat) : (s.readWords a n).2.regs = s.regs := by
  induction n generalizing s a with
  | zero => rfl
  | succ n ih => simp [State.readWords, ih]

@[simp] theorem readWords_pc (s : State) (a : Word) (n : Nat) : (s.readWords a n).2.pc = s.pc := by
  induction n generalizing s a with
  | zero => rfl
  | succ n ih => simp [State.readWords, ih]

@[simp] theorem readWords_cpsr (s : State) (a : Word) (n : Nat) : (s.readWords a n).2.cpsr = s.cpsr := by
  induction n generalizing s a with
  | zero => rfl
  | succ n ih => simp [State.readWords, ih]

@[simp] theorem readWords_spsr (s : State) (a : Word) (n : Nat) : (s.readWords a n).2.spsr = s.spsr := by
  induction n generalizing s a with
  | zero => rfl
  | succ n ih => simp [State.readWords, ih]

@[simp] theorem readWords_ie (s : State) (a : Word) (n : Nat) : (s.readWords a n).2.ie = s.ie := by
  induction n generalizing s a with
  | zero => rfl
  | succ n ih => simp [State.readWords, ih]

@[simp] theorem readWords_ifr (s : State) (a : Word) (n : Nat) : (s.readWords a n).2.ifr = s.ifr := by
  induction n generalizing s a with
  | zero => rfl
  | succ n ih => simp [State.readWords, ih]

@[simp] theorem readWords_ime (s : State) (a : Word) (n : Nat) : (s.readWords a n).2.ime = s.ime := by
  induction n generalizing s a with
  | zero => rfl
  | succ n ih => simp [State.readWords, ih]

@[simp] theorem readWords_halted (s : State) (a : Word) (n : Nat) : (s.readWords a n).2.halted = s.halted := by
  induction n generalizing s a with
  | zero => rfl
  | succ n ih => simp [State.readWords, ih]

@[simp] theorem readWords_cycles (s : State) (a : Word) (n : Nat) : (s.readWords a n).2.cycles = s.cycles := by
  induction n generalizing s a with
  | zero => rfl
  | succ n ih => simp [State.readWords, ih]

@[simp] theorem readWords_mem (s : State) (a : Word) (n : Nat) : (s.readWords a n).2.mem = s.mem := by
  induction n generalizing s a with
  | zero => rfl
  | succ n ih => simp [State.readWords, ih]

@[simp] theorem readWords_cfg (s : State) (a : Word) (n : Nat) : (s.readWords a n).2.cfg = s.cfg := by
  induction n generalizing s a with
  | zero => rfl
  | succ n ih => simp [State.readWords, ih]

/-- What a read of any of the five shapes leaves: everything but the record of what DEVICE bytes draw and deliver. -/
theorem restSameButBus_byteRead (s : State) (p : Word) : RestSameButBus s (s.byteRead p).2 := by simp [RestSameButBus]
theorem restSameButBus_memRead (s : State) (w : Width) (a : Word) : RestSameButBus s (s.memRead w a).2 := by
  simp [RestSameButBus]
theorem restSameButBus_load (s : State) (k : LoadKind) (a : Word) : RestSameButBus s (s.load k a).2 := by
  simp [RestSameButBus]
theorem restSameButBus_readWords (s : State) (a : Word) (n : Nat) : RestSameButBus s (s.readWords a n).2 := by
  simp [RestSameButBus]

/-- Reading a run of bytes outside DEVICE regions has no side effect. -/
theorem readBytes_state (s : State) (p : Word) (n : Nat) (h : ∀ k, k < n → s.kind (byteAddr p k) ≠ .device) :
    (s.readBytes p n).2 = s := by
  induction n generalizing p with
  | zero => rfl
  | succ n ih =>
    have h0 : (s.byteRead p).2 = s := byteRead_state s p (by simpa [byteAddr] using h 0 (by omega))
    simp only [State.readBytes, h0]
    refine ih (p + 1) fun k hk => ?_
    have := h (k + 1) (by omega)
    rwa [show byteAddr p (k + 1) = byteAddr (p + 1) k by
      simp only [byteAddr]; rw [BitVec.add_assoc]; congr 1; apply BitVec.eq_of_toNat_eq; simp; omega] at this

/-- A run of words has as many words as asked for. -/
@[simp] theorem length_readWords (s : State) (a : Word) (n : Nat) : (s.readWords a n).1.length = n := by
  induction n generalizing s a with
  | zero => rfl
  | succ n ih => simp [State.readWords, ih]

/-! ### Writes -/

/-- What a byte write does to memory: it stores in RAM and nowhere else (R63, R67). -/
theorem byteWrite_mem (s : State) (p : Word) (b : Byte) :
    (s.byteWrite p b).mem = if s.kind p = .ram then s.mem.write p.toNat b else s.mem := by
  unfold State.byteWrite
  split <;> simp_all [State.intcWrite]
  (repeat' split) <;> rfl

@[simp] theorem intcWrite_regs (s : State) (p : Word) (b : Byte) : (s.intcWrite p b).regs = s.regs := by
  unfold State.intcWrite; (repeat' split) <;> rfl

@[simp] theorem intcWrite_pc (s : State) (p : Word) (b : Byte) : (s.intcWrite p b).pc = s.pc := by
  unfold State.intcWrite; (repeat' split) <;> rfl

@[simp] theorem intcWrite_cpsr (s : State) (p : Word) (b : Byte) : (s.intcWrite p b).cpsr = s.cpsr := by
  unfold State.intcWrite; (repeat' split) <;> rfl

@[simp] theorem intcWrite_spsr (s : State) (p : Word) (b : Byte) : (s.intcWrite p b).spsr = s.spsr := by
  unfold State.intcWrite; (repeat' split) <;> rfl

@[simp] theorem intcWrite_cycles (s : State) (p : Word) (b : Byte) : (s.intcWrite p b).cycles = s.cycles := by
  unfold State.intcWrite; (repeat' split) <;> rfl

@[simp] theorem intcWrite_cfg (s : State) (p : Word) (b : Byte) : (s.intcWrite p b).cfg = s.cfg := by
  unfold State.intcWrite; (repeat' split) <;> rfl

@[simp] theorem byteWrite_regs (s : State) (p : Word) (b : Byte) : (s.byteWrite p b).regs = s.regs := by
  unfold State.byteWrite; split <;> simp

@[simp] theorem byteWrite_pc (s : State) (p : Word) (b : Byte) : (s.byteWrite p b).pc = s.pc := by
  unfold State.byteWrite; split <;> simp

@[simp] theorem byteWrite_cpsr (s : State) (p : Word) (b : Byte) : (s.byteWrite p b).cpsr = s.cpsr := by
  unfold State.byteWrite; split <;> simp

@[simp] theorem byteWrite_spsr (s : State) (p : Word) (b : Byte) : (s.byteWrite p b).spsr = s.spsr := by
  unfold State.byteWrite; split <;> simp

@[simp] theorem byteWrite_cycles (s : State) (p : Word) (b : Byte) : (s.byteWrite p b).cycles = s.cycles := by
  unfold State.byteWrite; split <;> simp

@[simp] theorem byteWrite_cfg (s : State) (p : Word) (b : Byte) : (s.byteWrite p b).cfg = s.cfg := by
  unfold State.byteWrite; split <;> simp

@[simp] theorem writeBytes_regs (s : State) (p : Word) (bs : List Byte) : (s.writeBytes p bs).regs = s.regs := by
  induction bs generalizing s p with
  | nil => rfl
  | cons b bs ih => simp [State.writeBytes, ih]

@[simp] theorem writeBytes_pc (s : State) (p : Word) (bs : List Byte) : (s.writeBytes p bs).pc = s.pc := by
  induction bs generalizing s p with
  | nil => rfl
  | cons b bs ih => simp [State.writeBytes, ih]

@[simp] theorem writeBytes_cpsr (s : State) (p : Word) (bs : List Byte) : (s.writeBytes p bs).cpsr = s.cpsr := by
  induction bs generalizing s p with
  | nil => rfl
  | cons b bs ih => simp [State.writeBytes, ih]

@[simp] theorem writeBytes_spsr (s : State) (p : Word) (bs : List Byte) : (s.writeBytes p bs).spsr = s.spsr := by
  induction bs generalizing s p with
  | nil => rfl
  | cons b bs ih => simp [State.writeBytes, ih]

@[simp] theorem writeBytes_cycles (s : State) (p : Word) (bs : List Byte) : (s.writeBytes p bs).cycles = s.cycles := by
  induction bs generalizing s p with
  | nil => rfl
  | cons b bs ih => simp [State.writeBytes, ih]

@[simp] theorem writeBytes_cfg (s : State) (p : Word) (bs : List Byte) : (s.writeBytes p bs).cfg = s.cfg := by
  induction bs generalizing s p with
  | nil => rfl
  | cons b bs ih => simp [State.writeBytes, ih]

@[simp] theorem memWrite_regs (s : State) (w : Width) (a v : Word) : (s.memWrite w a v).regs = s.regs := writeBytes_regs _ _ _

@[simp] theorem memWrite_pc (s : State) (w : Width) (a v : Word) : (s.memWrite w a v).pc = s.pc := writeBytes_pc _ _ _

@[simp] theorem memWrite_cpsr (s : State) (w : Width) (a v : Word) : (s.memWrite w a v).cpsr = s.cpsr := writeBytes_cpsr _ _ _

@[simp] theorem memWrite_spsr (s : State) (w : Width) (a v : Word) : (s.memWrite w a v).spsr = s.spsr := writeBytes_spsr _ _ _

@[simp] theorem memWrite_cycles (s : State) (w : Width) (a v : Word) : (s.memWrite w a v).cycles = s.cycles := writeBytes_cycles _ _ _

@[simp] theorem memWrite_cfg (s : State) (w : Width) (a v : Word) : (s.memWrite w a v).cfg = s.cfg := writeBytes_cfg _ _ _

@[simp] theorem writeWords_regs (s : State) (a : Word) (vs : List Word) : (s.writeWords a vs).regs = s.regs := by
  induction vs generalizing s a with
  | nil => rfl
  | cons v vs ih => simp [State.writeWords, ih]

@[simp] theorem writeWords_pc (s : State) (a : Word) (vs : List Word) : (s.writeWords a vs).pc = s.pc := by
  induction vs generalizing s a with
  | nil => rfl
  | cons v vs ih => simp [State.writeWords, ih]

@[simp] theorem writeWords_cpsr (s : State) (a : Word) (vs : List Word) : (s.writeWords a vs).cpsr = s.cpsr := by
  induction vs generalizing s a with
  | nil => rfl
  | cons v vs ih => simp [State.writeWords, ih]

@[simp] theorem writeWords_spsr (s : State) (a : Word) (vs : List Word) : (s.writeWords a vs).spsr = s.spsr := by
  induction vs generalizing s a with
  | nil => rfl
  | cons v vs ih => simp [State.writeWords, ih]

@[simp] theorem writeWords_cycles (s : State) (a : Word) (vs : List Word) : (s.writeWords a vs).cycles = s.cycles := by
  induction vs generalizing s a with
  | nil => rfl
  | cons v vs ih => simp [State.writeWords, ih]

@[simp] theorem writeWords_cfg (s : State) (a : Word) (vs : List Word) : (s.writeWords a vs).cfg = s.cfg := by
  induction vs generalizing s a with
  | nil => rfl
  | cons v vs ih => simp [State.writeWords, ih]

/-! ### Every memory operation keeps the memory canonical -/

theorem byteRead_wf (s : State) (p : Word) (h : Memory.wf s.mem) : Memory.wf (s.byteRead p).2.mem := by simpa using h
theorem readBytes_wf (s : State) (p : Word) (n : Nat) (h : Memory.wf s.mem) : Memory.wf (s.readBytes p n).2.mem := by
  simpa using h
theorem memRead_wf (s : State) (w : Width) (a : Word) (h : Memory.wf s.mem) : Memory.wf (s.memRead w a).2.mem := by
  simpa using h
theorem load_wf (s : State) (k : LoadKind) (a : Word) (h : Memory.wf s.mem) : Memory.wf (s.load k a).2.mem := by
  simpa using h
theorem readWords_wf (s : State) (a : Word) (n : Nat) (h : Memory.wf s.mem) : Memory.wf (s.readWords a n).2.mem := by
  simpa using h

theorem byteWrite_wf (s : State) (p : Word) (b : Byte) (h : Memory.wf s.mem) : Memory.wf (s.byteWrite p b).mem := by
  rw [byteWrite_mem]
  split
  · exact Memory.wf_write h _ _
  · exact h

theorem writeBytes_wf (s : State) (p : Word) (bs : List Byte) (h : Memory.wf s.mem) :
    Memory.wf (s.writeBytes p bs).mem := by
  induction bs generalizing s p with
  | nil => exact h
  | cons b bs ih => exact ih _ _ (byteWrite_wf s p b h)

theorem memWrite_wf (s : State) (w : Width) (a v : Word) (h : Memory.wf s.mem) : Memory.wf (s.memWrite w a v).mem :=
  writeBytes_wf _ _ _ h

theorem writeWords_wf (s : State) (a : Word) (vs : List Word) (h : Memory.wf s.mem) :
    Memory.wf (s.writeWords a vs).mem := by
  induction vs generalizing s a with
  | nil => exact h
  | cons v vs ih => exact ih _ _ (memWrite_wf s .word a v h)

/-! ### Where a store lands -/

/-- Consecutive byte addresses. -/
theorem byteAddr_succ (p : Word) (k : Nat) : byteAddr p (k + 1) = byteAddr (p + 1) k := by
  simp only [byteAddr]
  rw [BitVec.add_assoc]
  congr 1
  apply BitVec.eq_of_toNat_eq
  simp
  omega

@[simp] theorem byteAddr_zero (p : Word) : byteAddr p 0 = p := by simp [byteAddr]

/-- Two of fewer than 2^32 consecutive addresses differ. -/
theorem byteAddr_inj {p : Word} {j k : Nat} (hj : j < 2 ^ 32) (hk : k < 2 ^ 32) (h : byteAddr p j = byteAddr p k) : j = k := by
  have h1 : BitVec.ofNat 32 j = BitVec.ofNat 32 k := by
    have := congrArg (fun x => x - p) h
    simpa [byteAddr, BitVec.add_sub_cancel, BitVec.add_comm p] using this
  have h2 := congrArg BitVec.toNat h1
  simp only [BitVec.toNat_ofNat] at h2
  rwa [Nat.mod_eq_of_lt hj, Nat.mod_eq_of_lt hk] at h2

/-- A byte write leaves the bytes at other addresses alone. -/
theorem byteWrite_read_other (s : State) (p : Word) (b : Byte) {a : Word} (h : a ≠ p) :
    (s.byteWrite p b).mem.read a.toNat = s.mem.read a.toNat := by
  rw [byteWrite_mem]
  split
  · exact Memory.read_write_other b fun e => h (BitVec.eq_of_toNat_eq e)
  · rfl

/-- A run of writes leaves the bytes at addresses outside the run alone. -/
theorem writeBytes_read_other (s : State) (p : Word) (bs : List Byte) {a : Word}
    (h : ∀ k, k < bs.length → a ≠ byteAddr p k) : (s.writeBytes p bs).mem.read a.toNat = s.mem.read a.toNat := by
  induction bs generalizing s p with
  | nil => rfl
  | cons b bs ih =>
    rw [State.writeBytes, ih (s.byteWrite p b) (p + 1) fun k hk => by
      rw [← byteAddr_succ]; exact h (k + 1) (by simpa using hk)]
    exact byteWrite_read_other s p b (by simpa using h 0 (by simp))

/-- Each byte of a run that lies in RAM is stored. -/
theorem writeBytes_read_same (s : State) (p : Word) (bs : List Byte) (hm : Memory.wf s.mem) (hl : bs.length ≤ 2 ^ 32)
    {k : Nat} (hk : k < bs.length) (hr : s.kind (byteAddr p k) = .ram) :
    (s.writeBytes p bs).mem.read (byteAddr p k).toNat = bs[k] := by
  induction bs generalizing s p k with
  | nil => simp at hk
  | cons b bs ih =>
    have hl' : bs.length + 1 ≤ 2 ^ 32 := by simpa using hl
    cases k with
    | zero =>
      rw [State.writeBytes, writeBytes_read_other _ _ _ fun j hj => ?_]
      · rw [byteWrite_mem, if_pos (by simpa using hr)]
        simpa using Memory.read_write_same hm _ b
      · rw [← byteAddr_succ]
        intro e
        have := byteAddr_inj (by omega) (by omega) e
        omega
    | succ k =>
      rw [byteAddr_succ] at hr ⊢
      have := ih (s.byteWrite p b) (p + 1) (byteWrite_wf s p b hm) (by omega) (k := k) (by simpa using hk)
        (by rw [kind_congr (byteWrite_cfg s p b)]; exact hr)
      simpa [State.writeBytes] using this

@[simp] theorem length_splitBytes (v : Word) (n : Nat) : (splitBytes v n).length = n := by
  induction n generalizing v with
  | zero => rfl
  | succ n ih => simp [splitBytes, ih]

/-- Byte `k` of a value (R65). -/
theorem getElem_splitBytes (v : Word) (n k : Nat) (h : k < (splitBytes v n).length) :
    (splitBytes v n)[k] = (v >>> (8 * k)).setWidth 8 := by
  induction n generalizing v k with
  | zero => simp at h
  | succ n ih =>
    cases k with
    | zero => simp [splitBytes]
    | succ k =>
      have hk : k < (splitBytes (v >>> 8) n).length := by simpa using h
      have := ih (v >>> 8) k hk
      simp only [splitBytes, List.getElem_cons_succ, this]
      rw [← BitVec.shiftRight_add]
      congr 2
      omega

/-- Bit `j` of the value of a byte list is bit `j mod 8` of byte `j / 8` (R65). -/
theorem getLsbD_joinBytes (bs : List Byte) (j : Nat) (h : j < 32) :
    (joinBytes bs).getLsbD j = (bs.getD (j / 8) 0).getLsbD (j % 8) := by
  induction bs generalizing j with
  | nil => simp [joinBytes]
  | cons b bs ih =>
    simp only [joinBytes, BitVec.getLsbD_or, BitVec.getLsbD_shiftLeft, zext, BitVec.getLsbD_setWidth]
    by_cases hj : j < 8
    · simp [hj, h, show j / 8 = 0 by omega, show j % 8 = j by omega]
    · rw [ih _ (by omega), show j / 8 = (j - 8) / 8 + 1 by omega, show j % 8 = (j - 8) % 8 by omega]
      simp [hj, h, BitVec.getLsbD_of_ge b j (by omega)]

/-- What a store does to memory, at every address (R63, R65). -/
theorem bytesStored_memWrite (s : State) (w : Width) (a v : Word) (hm : Memory.wf s.mem) :
    BytesStored w.bytes (w.alignDown a) v s (s.memWrite w a v) := by
  have hw : w.bytes ≤ 4 := by cases w <;> simp [Width.bytes]
  constructor
  · intro k hk hr
    rw [State.memWrite, writeBytes_read_same s _ _ hm (by simp; omega) (by simpa using hk) hr, getElem_splitBytes]
  · intro b hb
    exact writeBytes_read_other _ _ _ (by simpa using hb)

/-- A byte write to RAM, ROM or an open region changes memory only. -/
theorem byteWrite_quiet (s : State) (p : Word) (b : Byte) (hi : s.kind p ≠ .intc) (hd : s.kind p ≠ .device) :
    s.byteWrite p b = s.setMem (s.byteWrite p b).mem := by
  unfold State.byteWrite
  split <;> first | rfl | exact absurd (by assumption) hi | exact absurd (by assumption) hd

/-- A run of writes to RAM, ROM and open regions changes memory only. -/
theorem writeBytes_quiet (s : State) (p : Word) (bs : List Byte)
    (h : ∀ k, k < bs.length → s.kind (byteAddr p k) ≠ .intc ∧ s.kind (byteAddr p k) ≠ .device) :
    s.writeBytes p bs = s.setMem (s.writeBytes p bs).mem := by
  induction bs generalizing s p with
  | nil => rfl
  | cons b bs ih =>
    have h0 := h 0 (by simp)
    rw [byteAddr_zero] at h0
    rw [State.writeBytes, ih (s.byteWrite p b) (p + 1) fun k hk => by
      rw [← byteAddr_succ, kind_congr (byteWrite_cfg s p b)]; exact h (k + 1) (by simpa using hk)]
    rw [byteWrite_quiet s p b h0.1 h0.2]
    rfl

/-- A store outside the interrupt controller and the devices changes memory only. -/
theorem quietStore_memWrite (s : State) (w : Width) (a v : Word) :
    QuietStore w.bytes (w.alignDown a) s (s.memWrite w a v) := by
  intro h
  rw [State.memWrite, writeBytes_quiet s _ _ (by simpa using h)]
  simp

end Sys2Proof.Machine
end

