-- ==== Sys2Proof/Laws/Align.lean ====
section
/-! SUPPORT. Alignment as arithmetic (R29, R73), and a run of words as a run of bytes (R65, R281). -/

namespace Sys2Proof.Machine

open Sys2Proof

/-- Clearing the low two bits. -/
theorem and_mask4 (a : Word) : a &&& 0xFFFFFFFC#32 = (a >>> 2) <<< 2 := by
  apply BitVec.eq_of_getLsbD_eq
  intro i hi
  have hm : (0xFFFFFFFC#32).getLsbD i = (decide (i < 32) && !decide (i < 2) && decide (i - 2 < 32)) := by
    rw [show 0xFFFFFFFC#32 = BitVec.allOnes 32 <<< 2 from by decide, BitVec.getLsbD_shiftLeft, BitVec.getLsbD_allOnes]
  rw [BitVec.getLsbD_and, hm]
  by_cases h : i < 2
  · simp [h]
  · have h2 : i - 2 < 32 := by omega
    simp [h, hi, h2, show 2 + (i - 2) = i by omega]

/-- Clearing the low bit. -/
theorem and_mask2 (a : Word) : a &&& 0xFFFFFFFE#32 = (a >>> 1) <<< 1 := by
  apply BitVec.eq_of_getLsbD_eq
  intro i hi
  have hm : (0xFFFFFFFE#32).getLsbD i = (decide (i < 32) && !decide (i < 1) && decide (i - 1 < 32)) := by
    rw [show 0xFFFFFFFE#32 = BitVec.allOnes 32 <<< 1 from by decide, BitVec.getLsbD_shiftLeft, BitVec.getLsbD_allOnes]
  rw [BitVec.getLsbD_and, hm]
  by_cases h : i < 1
  · simp [show i = 0 by omega]
  · have h2 : i - 1 < 32 := by omega
    simp [h, hi, h2, show 1 + (i - 1) = i by omega]

theorem toNat_and_mask4 (a : Word) : (a &&& 0xFFFFFFFC#32).toNat = a.toNat - a.toNat % 4 := by
  rw [and_mask4]
  have := a.isLt
  simp [BitVec.toNat_shiftLeft, BitVec.toNat_ushiftRight, Nat.shiftLeft_eq, Nat.shiftRight_eq_div_pow]
  omega

theorem toNat_and_mask2 (a : Word) : (a &&& 0xFFFFFFFE#32).toNat = a.toNat - a.toNat % 2 := by
  rw [and_mask2]
  have := a.isLt
  simp [BitVec.toNat_shiftLeft, BitVec.toNat_ushiftRight, Nat.shiftLeft_eq, Nat.shiftRight_eq_div_pow]
  omega

/-- `addr & ~(n - 1)` (R73). -/
theorem toNat_alignDown (w : Width) (a : Word) : (w.alignDown a).toNat = a.toNat - a.toNat % w.bytes := by
  cases w
  · simp [Width.alignDown, Width.bytes, Nat.mod_one]
  · exact toNat_and_mask2 a
  · exact toNat_and_mask4 a

/-- `addr mod n = 0` (R73). -/
theorem aligned_iff (w : Width) (a : Word) : w.aligned a = true ↔ a.toNat % w.bytes = 0 := by
  have h := toNat_alignDown w a
  have hm := Nat.mod_le a.toNat w.bytes
  simp only [Width.aligned, beq_iff_eq]
  constructor
  · intro e
    rw [e] at h
    omega
  · intro e
    apply BitVec.eq_of_toNat_eq
    omega

/-- Aligning an aligned address. -/
theorem alignDown_of_aligned {w : Width} {a : Word} (h : w.aligned a = true) : w.alignDown a = a := by
  simpa [Width.aligned] using h

/-- An aligned-down address is aligned. -/
theorem aligned_alignDown (w : Width) (a : Word) : w.aligned (w.alignDown a) = true := by
  cases w <;> simp [Width.aligned, Width.alignDown, BitVec.and_assoc]

/-- The next word lies four bytes on, aligned or not. -/
theorem alignDown_word_add_four (a : Word) : Width.word.alignDown (a + 4) = Width.word.alignDown a + 4 := by
  apply BitVec.eq_of_toNat_eq
  have h1 := toNat_alignDown .word (a + 4)
  have h2 := toNat_alignDown .word a
  have := a.isLt
  simp only [Width.bytes, BitVec.toNat_add, show (4 : Word).toNat = 4 from rfl] at *
  rw [h1, h2]
  omega

/-- The stored program counter is aligned when its low bits are clear (R29). -/
theorem alignPc_eq_iff (t : Bool) (v : Word) : alignPc t v = v ↔ v.toNat % (if t then 2 else 4) = 0 := by
  cases t
  · have := aligned_iff .word v
    simpa [Width.aligned, Width.alignDown, Width.bytes, alignPc] using this
  · have := aligned_iff .half v
    simpa [Width.aligned, Width.alignDown, Width.bytes, alignPc] using this

/-- Writing one run of bytes after another. -/
theorem writeBytes_append (s : State) (p : Word) (xs ys : List Byte) :
    s.writeBytes p (xs ++ ys) = (s.writeBytes p xs).writeBytes (byteAddr p xs.length) ys := by
  induction xs generalizing s p with
  | nil => simp [State.writeBytes]
  | cons x xs ih =>
    simp only [List.cons_append, State.writeBytes, List.length_cons, ih]
    rw [byteAddr_succ]

/-- A run of words is written as the run of its bytes, from the address aligned down. -/
theorem writeWords_eq (s : State) (a : Word) (vs : List Word) :
    s.writeWords a vs = s.writeBytes (Width.word.alignDown a) (vs.flatMap fun v => splitBytes v 4) := by
  induction vs generalizing s a with
  | nil => rfl
  | cons v vs ih =>
    rw [State.writeWords, ih, List.flatMap_cons, writeBytes_append, alignDown_word_add_four]
    rfl

/-- The number of bytes of a run of words. -/
theorem length_flatMap_splitBytes (vs : List Word) : (vs.flatMap fun v => splitBytes v 4).length = 4 * vs.length := by
  induction vs with
  | nil => rfl
  | cons v vs ih => simp [ih]; omega

end Sys2Proof.Machine
end

