-- ==== Sys2Proof/Laws/Encoding.lean ====
section
/-! SUPPORT. What reading a field or a bit gives of a word put together from fields, and that a number read back from its own
bits is the number. -/

namespace Sys2Proof

theorem extract_or {n : Nat} (x y : BitVec n) (a k : Nat) :
    (x ||| y).extractLsb' a k = x.extractLsb' a k ||| y.extractLsb' a k := by
  ext i hi; simp

theorem extract_putField_same {n k : Nat} (a : Nat) (x : BitVec k) (h : a + k ≤ n) :
    (putField n a x).extractLsb' a k = x := by
  ext i hi
  have h1 : a + i < n := by omega
  simp [putField, h1, BitVec.getLsbD_eq_getElem hi]

theorem extract_putField_below {n k : Nat} (a w lo : Nat) (x : BitVec k) (h : a + w ≤ lo) :
    (putField n lo x).extractLsb' a w = 0 := by
  ext i hi
  have h1 : a + i < lo := by omega
  simp [putField, h1]

theorem extract_putField_above {n k : Nat} (a w lo : Nat) (x : BitVec k) (h : lo + k ≤ a) :
    (putField n lo x).extractLsb' a w = 0 := by
  ext i hi
  simp only [putField, BitVec.getElem_extractLsb', BitVec.getLsbD_shiftLeft, BitVec.getLsbD_setWidth]
  rw [BitVec.getLsbD_of_ge x (a + i - lo) (by omega)]; simp

theorem bit_putField {n k : Nat} (i lo : Nat) (x : BitVec k) :
    (putField n lo x).getLsbD i = (decide (i < n) && (decide (lo ≤ i) && x.getLsbD (i - lo))) := by
  by_cases h : lo ≤ i
  · have : ¬ i < lo := by omega
    by_cases h2 : i < n
    · have h3 : i - lo < n := by omega
      simp [putField, h, h2, this]
    · simp [putField, h2]
  · have : i < lo := by omega
    simp [putField, h, this]

theorem bit_putBit {n : Nat} (i lo : Nat) (b : Bool) :
    (putBit n lo b).getLsbD i = (decide (i < n) && (decide (lo = i) && b)) := by
  rw [putBit, bit_putField]
  by_cases h : lo = i
  · subst h; cases b <;> simp
  · by_cases h2 : lo ≤ i
    · have : i - lo ≠ 0 := by omega
      cases b <;> simp [h, h2]; omega
    · simp [h, h2]

theorem get_putField {n k : Nat} (i lo : Nat) (x : BitVec k) (h : i < n) :
    (putField n lo x)[i] = (decide (lo ≤ i) && x.getLsbD (i - lo)) := by
  rw [← BitVec.getLsbD_eq_getElem, bit_putField]; simp [h]

theorem get_putBit {n : Nat} (i lo : Nat) (b : Bool) (h : i < n) :
    (putBit n lo b)[i] = (decide (lo = i) && b) := by
  rw [← BitVec.getLsbD_eq_getElem, bit_putBit]; simp [h]

theorem extract_putBit_below {n : Nat} (a w lo : Nat) (b : Bool) (h : a + w ≤ lo) :
    (putBit n lo b).extractLsb' a w = 0 := extract_putField_below a w lo _ h

theorem extract_putBit_above {n : Nat} (a w lo : Nat) (b : Bool) (h : lo + 1 ≤ a) :
    (putBit n lo b).extractLsb' a w = 0 := extract_putField_above a w lo _ h

/-- The two halves of an immediate of the halfword transfers (R111). -/
@[simp] theorem append_nibbles (x : BitVec 8) : x.extractLsb' 4 4 ++ x.extractLsb' 0 4 = x := by
  ext i hi
  rw [BitVec.getElem_append]
  split
  · simp [BitVec.getLsbD_eq_getElem hi]
  · simp only [BitVec.getElem_extractLsb']
    rw [show 4 + (i - 4) = i by omega, BitVec.getLsbD_eq_getElem hi]

@[simp] theorem Cond.ofBits_toBits (c : Cond) : Cond.ofBits c.toBits = c := by cases c <;> rfl
@[simp] theorem ShiftType.ofBits_toBits (t : ShiftType) : ShiftType.ofBits t.toBits = t := by cases t <;> rfl
@[simp] theorem AluOp.ofBits_toBits (o : AluOp) : AluOp.ofBits o.toBits = o := by cases o <;> rfl

end Sys2Proof
end

