-- ==== Sys2Proof/Laws/HostPort.lean ====
section
/-! SUPPORT. The two readings of a status register (R30), and the laws of snapshots (70_reset_and_hazards.md R480, R481): the list of
fields is complete, what a saved snapshot holds for each field, when a field counts as held, and what a load gives. -/

namespace Sys2Proof

/-- The record of a status register loses no bit of it (R30). -/
@[simp] theorem Psr.ofWord_toWord (p : Psr) : Psr.ofWord p.toWord = p := by
  obtain ⟨n, z, c, v, r, i, f, t, m⟩ := p
  simp [Psr.ofWord, Psr.toWord, extract_or, get_putBit, get_putField, extract_putField_same, extract_putField_below,
    extract_putField_above, extract_putBit_below, extract_putBit_above]

/-- Every word is that of a status register (R30). -/
@[simp] theorem Psr.toWord_ofWord (w : Word) : (Psr.ofWord w).toWord = w := by
  apply BitVec.eq_of_getLsbD_eq
  intro j hj
  simp only [Psr.toWord, Psr.ofWord, BitVec.getLsbD_or, bit_putBit, bit_putField, BitVec.getLsbD_extractLsb', hj,
    decide_true, Bool.true_and]
  rcases (by omega : j < 5 ∨ j = 5 ∨ j = 6 ∨ j = 7 ∨ (8 ≤ j ∧ j < 28) ∨ j = 28 ∨ j = 29 ∨ j = 30 ∨ j = 31) with
    h | rfl | rfl | rfl | ⟨h, h'⟩ | rfl | rfl | rfl | rfl
  case inl =>
    simp [h, show ¬ 8 ≤ j by omega, show ¬ 5 = j by omega, show ¬ 6 = j by omega, show ¬ 7 = j by omega,
      show ¬ 28 = j by omega, show ¬ 29 = j by omega, show ¬ 30 = j by omega, show ¬ 31 = j by omega]
  case inr.inr.inr.inr.inl =>
    simp [h, show j - 8 < 20 by omega, show 8 + (j - 8) = j by omega, show ¬ j < 5 by omega, show ¬ 5 = j by omega,
      show ¬ 6 = j by omega, show ¬ 7 = j by omega, show ¬ 28 = j by omega, show ¬ 29 = j by omega,
      show ¬ 30 = j by omega, show ¬ 31 = j by omega]
  all_goals simp

end Sys2Proof

namespace Sys2Proof.Machine

open Sys2Proof

/-- The list of fields leaves none out. -/
theorem SnapshotField.mem_all (f : SnapshotField) : f ∈ SnapshotField.all := by
  simp only [SnapshotField.all, List.mem_append, List.mem_map, List.mem_finRange, true_and]
  rcases f with (i | i | i | b | b | _) | _ | e | _ | _ | _ | _ | _ | _ | _
  case spsr => cases e <;> simp
  case reg.sp => cases b <;> simp
  case reg.lr => cases b <;> simp
  all_goals simp

/-- Looking a key up in a list that gives every key of `ks` its value. -/
theorem lookup_map_self {β : Type} (g : SnapshotField → β) {ks : List SnapshotField} {f : SnapshotField} (h : f ∈ ks) :
    List.lookup f (ks.map fun k => (k, g k)) = some (g f) := by
  induction ks with
  | nil => cases h
  | cons k ks ih =>
    by_cases e : f = k
    · subst e; simp
    · have hk : (f == k) = false := by simpa using e
      simp only [List.map_cons, List.lookup, hk]
      exact ih ((List.mem_cons.1 h).resolve_left e)

/-- A saved snapshot holds every field with its value (R480). -/
@[simp] theorem lookup_saveState (s : State) (f : SnapshotField) : List.lookup f s.saveState = some (s.snapshotValue f) :=
  lookup_map_self s.snapshotValue f.mem_all

/-- The value a saved snapshot holds fits its field. -/
@[simp] theorem fits_snapshotValue (s : State) (f : SnapshotField) : (s.snapshotValue f).fits f = true := by
  cases f <;> simp [State.snapshotValue, FieldValue.fits, SnapshotField.hasWidth]

/-- A saved snapshot lacks no field. -/
@[simp] theorem holds_saveState (s : State) (f : SnapshotField) : Snapshot.holds s.saveState f = true := by
  simp [Snapshot.holds]

/-- A field is held exactly when it is there with a value that fits. -/
theorem holds_iff (x : Snapshot) (f : SnapshotField) :
    x.holds f = true ↔ ∃ v, List.lookup f x = some v ∧ v.fits f = true := by
  unfold Snapshot.holds
  split <;> rename_i h <;> simp [h]

/-- A field of one width is held exactly when it is there as bits of that width. -/
theorem holds_bits_iff {x : Snapshot} {f : SnapshotField} {n : Nat} (hf : ∀ w, f.hasWidth w = (w == n)) (hc : f ≠ .cycles) :
    x.holds f = true ↔ ∃ v : BitVec n, List.lookup f x = some (.bits n v) := by
  rw [holds_iff]
  constructor
  · rintro ⟨v, hv, h⟩
    cases v with
    | bits w b =>
      obtain rfl : w = n := by simpa [FieldValue.fits, hf] using h
      exact ⟨b, hv⟩
    | number n => exact absurd (by simpa [FieldValue.fits] using h) hc
  · rintro ⟨v, hv⟩
    exact ⟨_, hv, by simp [FieldValue.fits, hf]⟩

/-- `IE` or `IF` is held exactly when it is there as at least 14 bits. -/
theorem holds_mask_iff {x : Snapshot} {f : SnapshotField} (hf : f = .ie ∨ f = .ifr) :
    x.holds f = true ↔ ∃ (w : Nat) (v : BitVec w), 14 ≤ w ∧ List.lookup f x = some (.bits w v) := by
  rw [holds_iff]
  constructor
  · rintro ⟨v, hv, h⟩
    cases v with
    | bits w b => exact ⟨w, b, by rcases hf with rfl | rfl <;> simpa [FieldValue.fits, SnapshotField.hasWidth] using h, hv⟩
    | number n => rcases hf with rfl | rfl <;> simp [FieldValue.fits] at h
  · rintro ⟨w, v, hw, hv⟩
    exact ⟨_, hv, by rcases hf with rfl | rfl <;> simpa [FieldValue.fits, SnapshotField.hasWidth] using hw⟩

/-- `CYCLES` is held exactly when it is there as a number. -/
theorem holds_cycles_iff {x : Snapshot} : x.holds .cycles = true ↔ ∃ n, List.lookup .cycles x = some (.number n) := by
  rw [holds_iff]
  constructor
  · rintro ⟨v, hv, h⟩
    cases v with
    | bits w b => simp [FieldValue.fits, SnapshotField.hasWidth] at h
    | number n => exact ⟨n, hv⟩
  · rintro ⟨n, hv⟩
    exact ⟨_, hv, rfl⟩

/-- A malformed snapshot is the only one that is not loaded (R481). -/
theorem loadState_eq_ok {s t : State} {x : Snapshot} : s.loadState x = .ok t ↔ x.wellFormed = true ∧ t = s.restoreFrom x := by
  unfold State.loadState
  split <;> rename_i h <;> simp [h, eq_comm]

theorem loadState_eq_error {s : State} {x : Snapshot} : s.loadState x = .error .malformed ↔ x.wellFormed = false := by
  unfold State.loadState
  split <;> rename_i h <;> simp [h]

/-- The general registers of the state after a load (R480). -/
theorem phys_restoreFrom (s : State) (x : Snapshot) (p : PhysReg) : (s.restoreFrom x).phys p = x.bits 32 (.reg p) := by
  rcases p with i | i | i | b | b | _
  case sp => cases b <;> rfl
  case lr => cases b <;> rfl
  all_goals simp [State.phys, State.restoreFrom, Snapshot.regFile]

/-- The saved status registers of the state after a load (R480). -/
theorem spsr_restoreFrom (s : State) (x : Snapshot) (e : ExcMode) : (s.restoreFrom x).spsr.get e = x.psr (.spsr e) := by
  cases e <;> rfl

end Sys2Proof.Machine
end

