-- ==== Sys2Proof/Laws/Ops.lean ====
section
/-! SUPPORT. What each shared operation can answer: the gate, the refusals, the two ends of a meaning, entry into and return from an
exception, and the frames of the families. A proof about an instruction cites these and never unfolds them. -/

namespace Sys2Proof.Machine

open Sys2Proof

/-! ### The gate, the refusals and the ends of a meaning -/

/-- A refusal that does not hold goes on; one that holds answers no next state (R16). -/
theorem refuseIf_eq_next {b : Bool} {r : Fault} {k : Out} {t : State} :
    refuseIf b r k = .next t ↔ b = false ∧ k = .next t := by
  cases b <;> simp [refuseIf]

@[simp] theorem refuseIf_false (r : Fault) (k : Out) : refuseIf false r k = k := rfl
@[simp] theorem refuseIf_true (r : Fault) (k : Out) : refuseIf true r k = .fault r := rfl

/-- The state after an instruction whose condition fails (R151). -/
def skipped (s : State) : State := (s.setRawPc (s.pc + 4)).addCycles 1

/-- What the gate answers (R151). -/
theorem gate_eq_next {c : Cond} {s t : State} {k : Out} :
    gate c s k = .next t ↔ (s.passes c = true ∧ k = .next t) ∨ (s.passes c = false ∧ t = skipped s) := by
  unfold gate skipped State.finish
  cases s.passes c <;> simp [Form.size, eq_comm]

theorem gate_of_passes {c : Cond} {s : State} (k : Out) (h : s.passes c = true) : gate c s k = k := by simp [gate, h]

theorem gate_of_fails {c : Cond} {s : State} (k : Out) (h : s.passes c = false) : gate c s k = .next (skipped s) := by
  simp [gate, h, State.finish, skipped, Form.size]

@[simp] theorem passes_al (s : State) : s.passes .al = true := rfl

/-- A step that was not redirected (R147, R148). -/
theorem finish_eq (s : State) (f : Form) (cost : Nat) :
    s.finish f cost = .next { s with pc := s.pc + f.size, cycles := s.cycles + cost } := rfl

/-- A redirected step (R29, R147, R148). -/
theorem finishAt_eq (s : State) (v : Word) (cost : Nat) :
    s.finishAt v cost = .next { s with pc := alignPc s.cpsr.t v, cycles := s.cycles + cost } := rfl

theorem finish_eq_next {s t : State} {f : Form} {cost : Nat} :
    s.finish f cost = .next t ↔ t = (s.setRawPc (s.pc + f.size)).addCycles cost := by
  simp [State.finish, eq_comm]

theorem finishAt_eq_next {s t : State} {v : Word} {cost : Nat} :
    s.finishAt v cost = .next t ↔ t = (s.branchTo v).addCycles cost := by
  simp [State.finishAt, eq_comm]

/-! ### Saved status registers -/

@[simp] theorem SpsrFile.get_set_same (f : SpsrFile) (e : ExcMode) (p : Psr) : (f.set e p).get e = p := by cases e <;> rfl

theorem SpsrFile.get_set_other (f : SpsrFile) {e e' : ExcMode} (p : Psr) (h : e' ≠ e) : (f.set e p).get e' = f.get e' := by
  cases e <;> cases e' <;> first | rfl | exact absurd rfl h

@[simp] theorem Mode.ofBits_bits (md : Mode) : Mode.ofBits md.bits = some md := by cases md <;> rfl

/-- A legal mode number is that of the mode it names. -/
theorem Mode.bits_of_ofBits {m : BitVec 5} {md : Mode} (h : Mode.ofBits m = some md) : m = md.bits := by
  unfold Mode.ofBits at h
  repeat' split at h
  all_goals first | (cases h; assumption) | cases h

@[simp] theorem ExcMode.exc_toMode (e : ExcMode) : e.toMode.exc = some e := by cases e <;> rfl

/-! ### Switching the mode (R35, R37) -/

/-- A switch to the mode in force is no change (R37). -/
theorem switchMode_current (s : State) {md : Mode} (h : s.cpsr.m = md.bits) : s.switchMode md = s := by
  unfold State.switchMode State.setCpsr
  rw [← h]

/-- A switch changes no physical register, so switching away and back restores every banked value (R37). -/
@[simp] theorem phys_switchMode (s : State) (md : Mode) (p : PhysReg) : (s.switchMode md).phys p = s.phys p :=
  phys_setCpsr _ _ _

theorem switchMode_back (s : State) (md md' : Mode) (h : s.cpsr.m = md.bits) : (s.switchMode md').switchMode md = s := by
  unfold State.switchMode State.setCpsr
  simp [← h]

/-! ### Entry -/

/-- The whole of an entry (R440). -/
theorem enter_cpsr (s : State) (e : ExcMode) (vector link : Word) :
    (s.enter e vector link).cpsr = { s.cpsr with m := e.toMode.bits, i := true, t := false } := rfl

theorem enter_spsr (s : State) (e : ExcMode) (vector link : Word) :
    (s.enter e vector link).spsr = s.spsr.set e s.cpsr := by cases e <;> rfl

theorem enter_pc (s : State) (e : ExcMode) (vector link : Word) :
    (s.enter e vector link).pc = vector &&& 0xFFFFFFFC#32 := rfl

theorem enter_phys (s : State) (e : ExcMode) (vector link : Word) {p : PhysReg} (h : p ≠ .pc) :
    (s.enter e vector link).phys p = if p = .lr e.toMode.bank then link else s.phys p := by
  have h1 : PhysReg.lr e.toMode.bank ≠ .pc := by intro h; cases h
  simp only [State.enter, State.switchMode, phys_setRawPc, if_neg h, phys_setCpsr, phys_setPhys _ p link h1]
  congr 1

@[simp] theorem enter_ie (s : State) (e : ExcMode) (vector link : Word) :
    (s.enter e vector link).ie = s.ie := by cases e <;> rfl

@[simp] theorem enter_ifr (s : State) (e : ExcMode) (vector link : Word) :
    (s.enter e vector link).ifr = s.ifr := by cases e <;> rfl

@[simp] theorem enter_ime (s : State) (e : ExcMode) (vector link : Word) :
    (s.enter e vector link).ime = s.ime := by cases e <;> rfl

@[simp] theorem enter_halted (s : State) (e : ExcMode) (vector link : Word) :
    (s.enter e vector link).halted = s.halted := by cases e <;> rfl

@[simp] theorem enter_cycles (s : State) (e : ExcMode) (vector link : Word) :
    (s.enter e vector link).cycles = s.cycles := by cases e <;> rfl

@[simp] theorem enter_mem (s : State) (e : ExcMode) (vector link : Word) :
    (s.enter e vector link).mem = s.mem := by cases e <;> rfl

@[simp] theorem enter_cfg (s : State) (e : ExcMode) (vector link : Word) :
    (s.enter e vector link).cfg = s.cfg := by cases e <;> rfl

@[simp] theorem enter_draws (s : State) (e : ExcMode) (vector link : Word) :
    (s.enter e vector link).draws = s.draws := by cases e <;> rfl

@[simp] theorem enter_bus (s : State) (e : ExcMode) (vector link : Word) :
    (s.enter e vector link).bus = s.bus := by cases e <;> rfl

/-! ### Return -/

/-- When the restore is not refused (R33, R38). -/
theorem restoreFault_eq_none {s : State} :
    s.restoreFault = none ↔ ∃ e, s.excMode = some e ∧ (Mode.ofBits (s.spsr.get e).m).isSome = true := by
  unfold State.restoreFault
  cases s.excMode with
  | none => simp
  | some e => cases h : Mode.ofBits (s.spsr.get e).m <;> simp [h]

/-- The restore in a mode that has an SPSR (R39). -/
theorem restoreCpsr_eq {s : State} {e : ExcMode} (h : s.excMode = some e) : s.restoreCpsr = s.setCpsr (s.spsr.get e) := by
  simp [State.restoreCpsr, h]

/-- The return (R185, R288), in a state of the mode the refusals were tested in. -/
theorem exceptionReturn_eq_next {before s t : State} {v : Word} {cost : Nat} (hm : s.cpsr.m = before.cpsr.m) :
    before.exceptionReturn s v cost = .next t ↔
      ∃ e, before.excMode = some e ∧ (Mode.ofBits (before.spsr.get e).m).isSome = true ∧
        t = ((s.setCpsr (s.spsr.get e)).branchTo v).addCycles cost := by
  have hx : s.excMode = before.excMode := by simp [State.excMode, hm]
  unfold State.exceptionReturn
  cases hf : before.restoreFault with
  | some r =>
    simp only [reduceCtorEq, false_iff, not_exists, not_and]
    intro e he hl
    have := restoreFault_eq_none.2 ⟨e, he, hl⟩
    rw [hf] at this
    cases this
  | none =>
    obtain ⟨e, he, hl⟩ := restoreFault_eq_none.1 hf
    simp only [finishAt_eq_next]
    constructor
    · intro ht
      exact ⟨e, he, hl, by rw [ht, restoreCpsr_eq (hx.trans he)]⟩
    · rintro ⟨e', he', -, ht⟩
      rw [ht, restoreCpsr_eq (hx.trans he')]

/-! ### Flags and register lists -/

@[simp] theorem flagsOf_withFlags (p : Psr) (f : Flags) : flagsOf (withFlags p f) = f := rfl

@[simp] theorem setFlags_regs (s : State) (f : Flags) : (s.setFlags f).regs = s.regs := rfl
@[simp] theorem setFlags_pc (s : State) (f : Flags) : (s.setFlags f).pc = s.pc := rfl
@[simp] theorem setFlags_cpsr (s : State) (f : Flags) : (s.setFlags f).cpsr = withFlags s.cpsr f := rfl
@[simp] theorem setFlags_spsr (s : State) (f : Flags) : (s.setFlags f).spsr = s.spsr := rfl
@[simp] theorem setFlags_ie (s : State) (f : Flags) : (s.setFlags f).ie = s.ie := rfl
@[simp] theorem setFlags_ifr (s : State) (f : Flags) : (s.setFlags f).ifr = s.ifr := rfl
@[simp] theorem setFlags_ime (s : State) (f : Flags) : (s.setFlags f).ime = s.ime := rfl
@[simp] theorem setFlags_halted (s : State) (f : Flags) : (s.setFlags f).halted = s.halted := rfl
@[simp] theorem setFlags_cycles (s : State) (f : Flags) : (s.setFlags f).cycles = s.cycles := rfl
@[simp] theorem setFlags_mem (s : State) (f : Flags) : (s.setFlags f).mem = s.mem := rfl
@[simp] theorem setFlags_cfg (s : State) (f : Flags) : (s.setFlags f).cfg = s.cfg := rfl
@[simp] theorem setFlags_draws (s : State) (f : Flags) : (s.setFlags f).draws = s.draws := rfl
@[simp] theorem setFlags_bus (s : State) (f : Flags) : (s.setFlags f).bus = s.bus := rfl

@[simp] theorem phys_setFlags (s : State) (f : Flags) (p : PhysReg) : (s.setFlags f).phys p = s.phys p := phys_setCpsr _ _ _

@[simp] theorem setMulFlags_regs (s : State) (b n z : Bool) : (s.setMulFlags b n z).regs = s.regs := by
  cases b <;> rfl

@[simp] theorem setMulFlags_pc (s : State) (b n z : Bool) : (s.setMulFlags b n z).pc = s.pc := by
  cases b <;> rfl

@[simp] theorem setMulFlags_spsr (s : State) (b n z : Bool) : (s.setMulFlags b n z).spsr = s.spsr := by
  cases b <;> rfl

@[simp] theorem setMulFlags_ie (s : State) (b n z : Bool) : (s.setMulFlags b n z).ie = s.ie := by
  cases b <;> rfl

@[simp] theorem setMulFlags_ifr (s : State) (b n z : Bool) : (s.setMulFlags b n z).ifr = s.ifr := by
  cases b <;> rfl

@[simp] theorem setMulFlags_ime (s : State) (b n z : Bool) : (s.setMulFlags b n z).ime = s.ime := by
  cases b <;> rfl

@[simp] theorem setMulFlags_halted (s : State) (b n z : Bool) : (s.setMulFlags b n z).halted = s.halted := by
  cases b <;> rfl

@[simp] theorem setMulFlags_cycles (s : State) (b n z : Bool) : (s.setMulFlags b n z).cycles = s.cycles := by
  cases b <;> rfl

@[simp] theorem setMulFlags_mem (s : State) (b n z : Bool) : (s.setMulFlags b n z).mem = s.mem := by
  cases b <;> rfl

@[simp] theorem setMulFlags_cfg (s : State) (b n z : Bool) : (s.setMulFlags b n z).cfg = s.cfg := by
  cases b <;> rfl

@[simp] theorem setMulFlags_bus (s : State) (b n z : Bool) : (s.setMulFlags b n z).bus = s.bus := by
  cases b <;> rfl

/-- The flags and the draw of a multiply (R212, R213). -/
theorem setMulFlags_cpsr (s : State) (b n z : Bool) :
    (s.setMulFlags b n z).cpsr = if b then withFlags s.cpsr (mulFlags s.draws n z) else s.cpsr := by cases b <;> rfl

theorem setMulFlags_draws (s : State) (b n z : Bool) :
    (s.setMulFlags b n z).draws = if b then s.draws + 1 else s.draws := by cases b <;> rfl

@[simp] theorem phys_setMulFlags (s : State) (b n z : Bool) (p : PhysReg) :
    (s.setMulFlags b n z).phys p = s.phys p := phys_congr (by simp) (by simp) p

@[simp] theorem writeBack_cpsr (s : State) (wb : Option (Reg × Word)) : (s.writeBack wb).cpsr = s.cpsr := by
  cases wb <;> simp [State.writeBack]

@[simp] theorem writeBack_spsr (s : State) (wb : Option (Reg × Word)) : (s.writeBack wb).spsr = s.spsr := by
  cases wb <;> simp [State.writeBack]

@[simp] theorem writeBack_ie (s : State) (wb : Option (Reg × Word)) : (s.writeBack wb).ie = s.ie := by
  cases wb <;> simp [State.writeBack]

@[simp] theorem writeBack_ifr (s : State) (wb : Option (Reg × Word)) : (s.writeBack wb).ifr = s.ifr := by
  cases wb <;> simp [State.writeBack]

@[simp] theorem writeBack_ime (s : State) (wb : Option (Reg × Word)) : (s.writeBack wb).ime = s.ime := by
  cases wb <;> simp [State.writeBack]

@[simp] theorem writeBack_halted (s : State) (wb : Option (Reg × Word)) : (s.writeBack wb).halted = s.halted := by
  cases wb <;> simp [State.writeBack]

@[simp] theorem writeBack_cycles (s : State) (wb : Option (Reg × Word)) : (s.writeBack wb).cycles = s.cycles := by
  cases wb <;> simp [State.writeBack]

@[simp] theorem writeBack_mem (s : State) (wb : Option (Reg × Word)) : (s.writeBack wb).mem = s.mem := by
  cases wb <;> simp [State.writeBack]

@[simp] theorem writeBack_cfg (s : State) (wb : Option (Reg × Word)) : (s.writeBack wb).cfg = s.cfg := by
  cases wb <;> simp [State.writeBack]

@[simp] theorem writeBack_draws (s : State) (wb : Option (Reg × Word)) : (s.writeBack wb).draws = s.draws := by
  cases wb <;> simp [State.writeBack]

@[simp] theorem writeBack_bus (s : State) (wb : Option (Reg × Word)) : (s.writeBack wb).bus = s.bus := by
  cases wb <;> simp [State.writeBack]

@[simp] theorem setBlock_cpsr (s : State) (user : Bool) (l : List (Reg × Word)) :
    (s.setBlock user l).cpsr = s.cpsr := by
  induction l generalizing s with
  | nil => rfl
  | cons x l ih => simp only [State.setBlock, ih]; (repeat' split) <;> simp

@[simp] theorem setBlock_spsr (s : State) (user : Bool) (l : List (Reg × Word)) :
    (s.setBlock user l).spsr = s.spsr := by
  induction l generalizing s with
  | nil => rfl
  | cons x l ih => simp only [State.setBlock, ih]; (repeat' split) <;> simp

@[simp] theorem setBlock_ie (s : State) (user : Bool) (l : List (Reg × Word)) :
    (s.setBlock user l).ie = s.ie := by
  induction l generalizing s with
  | nil => rfl
  | cons x l ih => simp only [State.setBlock, ih]; (repeat' split) <;> simp

@[simp] theorem setBlock_ifr (s : State) (user : Bool) (l : List (Reg × Word)) :
    (s.setBlock user l).ifr = s.ifr := by
  induction l generalizing s with
  | nil => rfl
  | cons x l ih => simp only [State.setBlock, ih]; (repeat' split) <;> simp

@[simp] theorem setBlock_ime (s : State) (user : Bool) (l : List (Reg × Word)) :
    (s.setBlock user l).ime = s.ime := by
  induction l generalizing s with
  | nil => rfl
  | cons x l ih => simp only [State.setBlock, ih]; (repeat' split) <;> simp

@[simp] theorem setBlock_halted (s : State) (user : Bool) (l : List (Reg × Word)) :
    (s.setBlock user l).halted = s.halted := by
  induction l generalizing s with
  | nil => rfl
  | cons x l ih => simp only [State.setBlock, ih]; (repeat' split) <;> simp

@[simp] theorem setBlock_cycles (s : State) (user : Bool) (l : List (Reg × Word)) :
    (s.setBlock user l).cycles = s.cycles := by
  induction l generalizing s with
  | nil => rfl
  | cons x l ih => simp only [State.setBlock, ih]; (repeat' split) <;> simp

@[simp] theorem setBlock_mem (s : State) (user : Bool) (l : List (Reg × Word)) :
    (s.setBlock user l).mem = s.mem := by
  induction l generalizing s with
  | nil => rfl
  | cons x l ih => simp only [State.setBlock, ih]; (repeat' split) <;> simp

@[simp] theorem setBlock_cfg (s : State) (user : Bool) (l : List (Reg × Word)) :
    (s.setBlock user l).cfg = s.cfg := by
  induction l generalizing s with
  | nil => rfl
  | cons x l ih => simp only [State.setBlock, ih]; (repeat' split) <;> simp

@[simp] theorem setBlock_draws (s : State) (user : Bool) (l : List (Reg × Word)) :
    (s.setBlock user l).draws = s.draws := by
  induction l generalizing s with
  | nil => rfl
  | cons x l ih => simp only [State.setBlock, ih]; (repeat' split) <;> simp

@[simp] theorem setBlock_bus (s : State) (user : Bool) (l : List (Reg × Word)) :
    (s.setBlock user l).bus = s.bus := by
  induction l generalizing s with
  | nil => rfl
  | cons x l ih => simp only [State.setBlock, ih]; (repeat' split) <;> simp

/-- A block load writes r15 by its own end, never through the list. -/
@[simp] theorem setBlock_pc (s : State) (user : Bool) (l : List (Reg × Word)) : (s.setBlock user l).pc = s.pc := by
  induction l generalizing s with
  | nil => rfl
  | cons x l ih =>
    simp only [State.setBlock, ih]
    repeat' split
    · rfl
    · exact setPhys_pc_of_ne _ _ (physOf_ne_pc ‹_›)
    · exact setPhys_pc_of_ne _ _ (physOf_ne_pc ‹_›)

/-- A register that no pair of the list names keeps its value. -/
theorem phys_setBlock_other (s : State) (user : Bool) (l : List (Reg × Word)) {p : PhysReg}
    (h : ∀ x ∈ l, x.1 ≠ 15 → p ≠ physOf (if user then Mode.usr.bits else s.cpsr.m) x.1) :
    (s.setBlock user l).phys p = s.phys p := by
  induction l generalizing s with
  | nil => rfl
  | cons x l ih =>
    have h0 := h x (by simp)
    have h1 := fun y hy => h y (List.mem_cons_of_mem x hy)
    simp only [State.setBlock]
    split
    · exact ih s h1
    · rename_i hx
      cases user
      · rw [if_neg (by simp), ih _ (by simpa using h1)]
        exact phys_setPhys_other _ _ (by simpa using h0 hx)
      · rw [if_pos rfl, ih _ (by simpa using h1)]
        exact phys_setPhys_other _ _ (by simpa using h0 hx)

/-! ### The frames of the families -/

/-- A load of one register (R254, R262). -/
theorem loadInto_eq_next {f : Form} {k : LoadKind} {cost : Nat} {wb : Option (Reg × Word)} {rd : Reg} {a : Word} {s t : State} :
    loadInto f k cost wb rd a s = .next t ↔ s.misaligned k.width a = false ∧
      t = if rd = 15 then (((s.load k a).2.writeBack wb).branchTo (s.load k a).1).addCycles (cost + s.cfg.cost.loadPc)
        else
          ((((s.load k a).2.writeBack wb).setReg rd (s.load k a).1).setRawPc
            ((((s.load k a).2.writeBack wb).setReg rd (s.load k a).1).pc + f.size)).addCycles cost := by
  unfold loadInto
  rw [refuseIf_eq_next]
  split <;> simp [finish_eq_next, finishAt_eq_next]

/-- A store of one register (R254). -/
theorem storeFrom_eq_next {f : Form} {w : Width} {cost : Nat} {wb : Option (Reg × Word)} {rd : Reg} {a : Word} {s t : State} :
    storeFrom f w cost wb rd a s = .next t ↔ s.misaligned w a = false ∧
      t = (((s.memWrite w a (s.rdOp f rd)).writeBack wb).setRawPc
        (((s.memWrite w a (s.rdOp f rd)).writeBack wb).pc + f.size)).addCycles cost := by
  unfold storeFrom
  rw [refuseIf_eq_next, finish_eq_next]

/-- A swap (R291, R292). -/
theorem swap_eq_next {k : LoadKind} {c : Cond} {rn rd rm : Reg} {s t : State} :
    swap k c rn rd rm s = .next t ↔
      (s.passes c = false ∧ t = skipped s) ∨
      (s.passes c = true ∧ (rn == 15 || rd == 15 || rm == 15) = false ∧ s.misaligned k.width (s.reg rn) = false ∧
        let u := ((s.load k (s.reg rn)).2.memWrite k.width (s.reg rn) (s.reg rm)).setReg rd (s.load k (s.reg rn)).1
        t = (u.setRawPc (u.pc + 4)).addCycles s.cfg.cost.swap) := by
  unfold swap
  rw [gate_eq_next, refuseIf_eq_next, refuseIf_eq_next, finish_eq_next]
  simp only [Form.size]
  exact or_comm

/-- A multiply (R212 to R214). -/
theorem multiply_eq_next {refused : Bool} {c : Cond} {sb : Bool} {rd : Reg} {r : Word} {cost : Nat} {s t : State} :
    multiply refused c sb rd r cost s = .next t ↔
      (s.passes c = false ∧ t = skipped s) ∨
      (s.passes c = true ∧ refused = false ∧
        let u := (s.setReg rd r).setMulFlags sb r.msb (r == 0)
        t = (u.setRawPc (u.pc + 4)).addCycles cost) := by
  unfold multiply
  rw [gate_eq_next, refuseIf_eq_next, finish_eq_next]
  simp only [Form.size]
  exact or_comm

/-- A long multiply (R212 to R214). -/
theorem multiplyLong_eq_next {c : Cond} {sb : Bool} {rdHi rdLo rs rm : Reg} {r : BitVec 64} {cost : Nat} {s t : State} :
    multiplyLong c sb rdHi rdLo rs rm r cost s = .next t ↔
      (s.passes c = false ∧ t = skipped s) ∨
      (s.passes c = true ∧ (rdHi == 15 || rdLo == 15 || rm == 15 || rs == 15) = false ∧ (rdHi == rdLo) = false ∧
        let u := ((s.setReg rdLo (r.extractLsb' 0 32)).setReg rdHi (r.extractLsb' 32 32)).setMulFlags sb r.msb (r == 0)
        t = (u.setRawPc (u.pc + 4)).addCycles cost) := by
  unfold multiplyLong
  rw [gate_eq_next, refuseIf_eq_next, refuseIf_eq_next, finish_eq_next]
  simp only [Form.size]
  exact or_comm

/-- A data-processing instruction (R180, R183, R185). -/
theorem dataProc_eq_next {op : AluOp} {c : Cond} {sb : Bool} {rn rd : Reg} {o : Operand2} {s t : State} :
    dataProc op c sb rn rd o s = .next t ↔
      (s.passes c = false ∧ t = skipped s) ∨
      (s.passes c = true ∧ operandRefused o rn rd = false ∧
        let y := aluResult op (s.rdOp .wide rn) (s.shifter o).op2 (s.shifter o).shc s.flags
        let base := s.cfg.cost.dataProc + operandExtraCost o s.cfg.cost
        ((compares op = true ∧ t = ((s.setFlags y.2).setRawPc (s.pc + 4)).addCycles base) ∨
         (compares op = false ∧ rd = 15 ∧ sb = false ∧ t = (s.branchTo y.1).addCycles (base + 2)) ∨
         (compares op = false ∧ rd = 15 ∧ sb = true ∧ ∃ e, s.excMode = some e ∧
            (Mode.ofBits (s.spsr.get e).m).isSome = true ∧
            t = ((s.setCpsr (s.spsr.get e)).branchTo y.1).addCycles (base + 2)) ∨
         (compares op = false ∧ rd ≠ 15 ∧
            t = (((s.setReg rd y.1).setFlagsIf sb y.2).setRawPc (s.pc + 4)).addCycles base))) := by
  unfold dataProc
  rw [gate_eq_next, refuseIf_eq_next, or_comm]
  refine or_congr Iff.rfl (and_congr_right fun _ => and_congr_right fun _ => ?_)
  cases hc : compares op with
  | true => simp [finish_eq_next, Form.size]
  | false =>
    by_cases hd : rd = 15
    · cases sb
      · simp [hd, finishAt_eq_next]
      · simp [hd, exceptionReturn_eq_next rfl]
    · have hp : ((s.setReg rd (aluResult op (s.rdOp .wide rn) (s.shifter o).op2 (s.shifter o).shc s.flags).1).setFlagsIf sb
          (aluResult op (s.rdOp .wide rn) (s.shifter o).op2 (s.shifter o).shc s.flags).2).pc = s.pc := by
        cases sb <;> simp [State.setFlagsIf, State.setReg, setPhys_pc_of_ne _ _ (physOf_ne_pc hd)]
      simp [hd, finish_eq_next, Form.size, hp]

/-- A block load (R281 to R284, R286 to R289). -/
theorem blockLoad_eq_next {f : Form} {p u sb w : Bool} {rn : Reg} {list : BitVec 16} {s t : State} :
    blockLoad f p u sb w rn list s = .next t ↔
      let n := (regsOf list).length
      let start := blockStart p u (s.reg rn) n
      let user := sb && !list.getLsbD 15
      let r := s.readWords start n
      let s1 := if w then r.2.setReg rn (blockFinal u (s.reg rn) n) else r.2
      let s2 := s1.setBlock user ((regsOf list).zip r.1)
      let cost := s.cfg.cost.ldmBase + n
      (list == 0) = false ∧ (rn == 15) = false ∧ (user && w) = false ∧ (w && list.getLsbD rn.val) = false ∧
        s.misaligned .word start = false ∧
        ((list.getLsbD 15 = false ∧ t = (s2.setRawPc (s2.pc + f.size)).addCycles cost) ∨
         (list.getLsbD 15 = true ∧ sb = false ∧ t = (s2.branchTo (lastWord r.1)).addCycles (cost + s.cfg.cost.loadPc)) ∨
         (list.getLsbD 15 = true ∧ sb = true ∧ ∃ e, s.excMode = some e ∧ (Mode.ofBits (s.spsr.get e).m).isSome = true ∧
            t = ((s2.setCpsr (s2.spsr.get e)).branchTo (lastWord r.1)).addCycles (cost + s.cfg.cost.loadPc))) := by
  unfold blockLoad
  simp only [refuseIf_eq_next]
  refine and_congr_right fun _ => and_congr_right fun _ => and_congr_right fun _ => and_congr_right fun _ =>
    and_congr_right fun _ => ?_
  cases hl : list.getLsbD 15 with
  | false => simp [finish_eq_next]
  | true =>
    cases sb
    · simp [finishAt_eq_next]
    · simp only [if_true, true_and, Bool.true_eq_false, false_and, false_or]
      exact exceptionReturn_eq_next (by cases w <;> simp)

/-- A block store (R281 to R283, R285 to R287, R289). -/
theorem blockStore_eq_next {f : Form} {p u sb w : Bool} {rn : Reg} {list : BitVec 16} {s t : State} :
    blockStore f p u sb w rn list s = .next t ↔
      let n := (regsOf list).length
      let start := blockStart p u (s.reg rn) n
      let s1 := s.writeWords start ((regsOf list).map (s.blockValue f sb))
      let s2 := if w then s1.setReg rn (blockFinal u (s.reg rn) n) else s1
      (list == 0) = false ∧ (rn == 15) = false ∧ (sb && w) = false ∧
        (w && list.getLsbD rn.val && !lowestIs list rn) = false ∧ s.misaligned .word start = false ∧
        t = (s2.setRawPc (s2.pc + f.size)).addCycles (s.cfg.cost.stmBase + n) := by
  unfold blockStore
  simp only [refuseIf_eq_next, finish_eq_next]

end Sys2Proof.Machine
end

