-- ==== Sys2Proof/Laws/Step.lean ====
section
/-! SUPPORT. What one step can do (R140 to R147), and that the host's `run` is built of it. -/

namespace Sys2Proof.Machine

open Sys2Proof

/-- The fetch leaves everything but the record of what DEVICE bytes draw and deliver (R64, R76). -/
theorem fetch_frame (s : State) :
    RestSameButBus s s.fetch.2 ∧ s.fetch.2.regs = s.regs ∧ s.fetch.2.pc = s.pc ∧ s.fetch.2.cpsr = s.cpsr ∧
      s.fetch.2.cycles = s.cycles := by
  simp [State.fetch, RestSameButBus]

/-- A fetch outside DEVICE regions changes nothing. -/
theorem fetch_state (s : State)
    (h : ∀ k, k < (fetchWidth s.cpsr.t).bytes → s.kind (byteAddr ((fetchWidth s.cpsr.t).alignDown s.pc) k) ≠ .device) :
    s.fetch.2 = s := readBytes_state s _ _ h

/-- Path 3 runs the decoded instruction when its category is implemented (R144 to R146). -/
theorem executeOne_eq (s : State)
    (h : ∀ cat, (decode s.fetch.1).category = some cat → cat ∉ s.cfg.unimplemented) :
    s.executeOne = exec (decode s.fetch.1) s.fetch.2 := by
  unfold State.executeOne
  split
  · rfl
  · rename_i cat hc
    rw [if_neg]
    simpa using h cat hc

/-- Everything a step that answers a next state can have done (R140). -/
theorem step_cases {s t : State} (h : step s = .next t) :
    (s.checkPending = true ∧ t = s.serviceInterrupt) ∨
      (s.checkPending = false ∧ s.halted = true ∧ t = s.addCycles 1) ∨
      (s.checkPending = false ∧ s.halted = false ∧ exec (decode s.fetch.1) s.fetch.2 = .next t ∧
        ∀ cat, (decode s.fetch.1).category = some cat → cat ∉ s.cfg.unimplemented) := by
  unfold step at h
  cases hp : s.checkPending with
  | true =>
    rw [hp, if_pos rfl] at h
    exact .inl ⟨rfl, by simpa using h.symm⟩
  | false =>
    rw [hp, if_neg (by simp)] at h
    cases hh : s.halted with
    | true =>
      rw [hh, if_pos rfl] at h
      exact .inr (.inl ⟨rfl, rfl, by simpa using h.symm⟩)
    | false =>
      rw [hh, if_neg (by simp)] at h
      refine .inr (.inr ⟨rfl, rfl, ?_⟩)
      unfold State.executeOne at h
      split at h
      · rename_i hc
        exact ⟨h, fun cat hcat => by rw [hc] at hcat; cases hcat⟩
      · rename_i cat hc
        split at h
        · cases h
        · rename_i hn
          refine ⟨h, fun cat' hcat => ?_⟩
          rw [hc] at hcat
          cases hcat
          simpa using hn

/-- An invariant that every step keeps holds all along a run without a stop, of any machine. -/
theorem run_keeps (M : Host.Core) {P : M.State → Prop} (keep : ∀ s t, P s → M.step s = .next t → P t) {n : Nat}
    {s t : M.State} (hs : P s) (h : M.run n s = .next t) : P t := by
  induction n generalizing s with
  | zero => cases h; exact hs
  | succ n ih =>
    rw [Host.Core.run] at h
    split at h
    · exact ih (keep s _ hs ‹_›) h
    · cases h
    · cases h

/-- The same for this machine. -/
theorem run_induction {P : State → Prop} (keep : ∀ s t, P s → step s = .next t → P t) {n : Nat} {s t : State} (hs : P s)
    (h : Host.Core.run core n s = .next t) : P t := run_keeps core keep hs h

end Sys2Proof.Machine
end

