-- ==== Sys2Proof/Tests/Slice0.lean ====
section
/-! SUPPORT. The model's own tests: the well-formedness smoke, decoding of words written out from the encodings of 30_encoding.md,
single steps whose results are those of the spec's vectors and worked examples, and for every obligation that has hypotheses a
witness that meets them. -/

namespace Sys2Proof.Tests

open Sys2Proof Sys2Proof.Machine

set_option Elab.async false

/-! ### Well-formedness: an ill-formed term for each check -/

theorem test_illformed_teq_in_the_branch_exchange_word :
    (Instr.teqRegReg .al false 15 15 15 .lsl 0).wellFormed = false ∧ (Instr.teqRegReg .al true 15 15 15 .lsl 0).wellFormed = true ∧
      (Instr.teqRegReg .al false 15 15 14 .lsl 0).wellFormed = true := by decide

theorem test_illformed_format_16_conditions :
    (Instr.tBCond .al 0).wellFormed = false ∧ (Instr.tBCond .nv 0).wellFormed = false ∧
      (Instr.tBCond .le 0).wellFormed = true := by decide

theorem test_illformed_not_recognized :
    (Instr.nrHalfwordSpace 0xE0010291#32).wellFormed = false ∧ (Instr.nrHalfwordSpace 0xE0400090#32).wellFormed = true ∧
    (Instr.nrUndefinedSpace 0xE6000000#32).wellFormed = false ∧ (Instr.nrUndefinedSpace 0xE6000010#32).wellFormed = true ∧
    (Instr.nrCoprocessorSpace 0xEF000000#32).wellFormed = false ∧ (Instr.nrCoprocessorSpace 0xEE000000#32).wellFormed = true ∧
    (Instr.nrHighRegisterSpace 0x4440#16).wellFormed = false ∧ (Instr.nrHighRegisterSpace 0x4400#16).wellFormed = true ∧
    (Instr.nrCond14 0xDF00#16).wellFormed = false ∧ (Instr.nrCond14 0xDE00#16).wellFormed = true ∧
    (Instr.nrNarrow 0xE000#16).wellFormed = false ∧ (Instr.nrNarrow 0xB100#16).wellFormed = true := by decide

/-! ### Decoding: words put together from the field positions of the opcode table, one for every constructor -/

theorem test_decode_branches_and_blocks :
  decode (.wide 0xAFDB5B5F#32) = .swi .ge 0xdb5b5f#24 ∧
  decode (.wide 0x112FFF17#32) = .bx .ne 7 ∧
  decode (.wide 0xAA309D6B#32) = .b .ge 0x309d6b#24 ∧
  decode (.wide 0xAB79CB9E#32) = .bl .ge 0x79cb9e#24 ∧
  decode (.wide 0x08731955#32) = .ldm .eq false false true true 3 0x1955#16 ∧
  decode (.wide 0xC983E665#32) = .stm .gt true true false false 3 0xe665#16 := by decide +kernel

theorem test_decode_multiplies_and_swaps :
  decode (.wide 0xA0121794#32) = .mul .ge true 2 1 7 4 ∧
  decode (.wide 0xE03CEB9A#32) = .mla .al true 12 14 11 10 ∧
  decode (.wide 0xA096F79A#32) = .umull .ge true 6 15 7 10 ∧
  decode (.wide 0xA0B2909D#32) = .umlal .ge true 2 9 0 13 ∧
  decode (.wide 0xE0C03E93#32) = .smull .al false 0 3 14 3 ∧
  decode (.wide 0xE0F75799#32) = .smlal .al true 7 5 7 9 ∧
  decode (.wide 0xE108309A#32) = .swp .al 8 3 10 ∧
  decode (.wide 0x1140A091#32) = .swpb .ne 0 10 1 := by decide +kernel

theorem test_decode_halfword_transfers :
  decode (.wide 0xC078FEBE#32) = .ldrhImm .gt false false true 8 15 0xee#8 ∧
  decode (.wide 0xE11C30B8#32) = .ldrhReg .al true false false 12 3 8 ∧
  decode (.wide 0xE0F161DB#32) = .ldrsbImm .al false true true 1 6 0x1b#8 ∧
  decode (.wide 0x0030D0DA#32) = .ldrsbReg .eq false false true 0 13 10 ∧
  decode (.wide 0xE0F076F0#32) = .ldrshImm .al false true true 0 7 0x60#8 ∧
  decode (.wide 0xC019A0F3#32) = .ldrshReg .gt false false false 9 10 3 ∧
  decode (.wide 0xC04450B3#32) = .strhImm .gt false false false 4 5 0x3#8 ∧
  decode (.wide 0x118230BB#32) = .strhReg .ne true true false 2 3 11 := by decide +kernel

theorem test_decode_data_processing_immediate :
  decode (.wide 0xE207C72D#32) = .andImm .al false 7 12 0x7#4 0x2d#8 ∧
  decode (.wide 0xE224DFF9#32) = .eorImm .al false 4 13 0xf#4 0xf9#8 ∧
  decode (.wide 0x1240C954#32) = .subImm .ne false 0 12 0x9#4 0x54#8 ∧
  decode (.wide 0xA26D92DD#32) = .rsbImm .ge false 13 9 0x2#4 0xdd#8 ∧
  decode (.wide 0xE29F6E7B#32) = .addImm .al true 15 6 0xe#4 0x7b#8 ∧
  decode (.wide 0xA2A482ED#32) = .adcImm .ge false 4 8 0x2#4 0xed#8 ∧
  decode (.wide 0xE2C4673F#32) = .sbcImm .al false 4 6 0x7#4 0x3f#8 ∧
  decode (.wide 0xC2F89F23#32) = .rscImm .gt true 8 9 0xf#4 0x23#8 ∧
  decode (.wide 0x0302F113#32) = .tstImm .eq false 2 15 0x1#4 0x13#8 ∧
  decode (.wide 0xC32E1DDB#32) = .teqImm .gt false 14 1 0xd#4 0xdb#8 ∧
  decode (.wide 0xE354E6BA#32) = .cmpImm .al true 4 14 0x6#4 0xba#8 ∧
  decode (.wide 0xE3603FB2#32) = .cmnImm .al false 0 3 0xf#4 0xb2#8 ∧
  decode (.wide 0xE39E5AEE#32) = .orrImm .al true 14 5 0xa#4 0xee#8 ∧
  decode (.wide 0xE3A39E51#32) = .movImm .al false 3 9 0xe#4 0x51#8 ∧
  decode (.wide 0x13C4E3D4#32) = .bicImm .ne false 4 14 0x3#4 0xd4#8 ∧
  decode (.wide 0xA3EAB492#32) = .mvnImm .ge false 10 11 0x4#4 0x92#8 := by decide +kernel

theorem test_decode_data_processing_immediate_amount :
  decode (.wide 0xA007836B#32) = .andRegImm .ge false 7 8 0x6#5 .ror 11 ∧
  decode (.wide 0xA02FE002#32) = .eorRegImm .ge false 15 14 0x0#5 .lsl 2 ∧
  decode (.wide 0x00411109#32) = .subRegImm .eq false 1 1 0x2#5 .lsl 9 ∧
  decode (.wide 0xE0724E8D#32) = .rsbRegImm .al true 2 4 0x1d#5 .lsl 13 ∧
  decode (.wide 0xE0801188#32) = .addRegImm .al false 0 1 0x3#5 .lsl 8 ∧
  decode (.wide 0xE0A378CD#32) = .adcRegImm .al false 3 7 0x11#5 .asr 13 ∧
  decode (.wide 0xE0C4584F#32) = .sbcRegImm .al false 4 5 0x10#5 .asr 15 ∧
  decode (.wide 0xE0F07EAB#32) = .rscRegImm .al true 0 7 0x1d#5 .lsr 11 ∧
  decode (.wide 0xA10B0E6B#32) = .tstRegImm .ge false 11 0 0x1c#5 .ror 11 ∧
  decode (.wide 0xE137904A#32) = .teqRegImm .al true 7 9 0x0#5 .asr 10 ∧
  decode (.wide 0x115BB927#32) = .cmpRegImm .ne true 11 11 0x12#5 .lsr 7 ∧
  decode (.wide 0x1179AEA4#32) = .cmnRegImm .ne true 9 10 0x1d#5 .lsr 4 ∧
  decode (.wide 0x11935644#32) = .orrRegImm .ne true 3 5 0xc#5 .asr 4 ∧
  decode (.wide 0xE1A75D6D#32) = .movRegImm .al false 7 5 0x1a#5 .ror 13 ∧
  decode (.wide 0x11D87AAB#32) = .bicRegImm .ne true 8 7 0x15#5 .lsr 11 ∧
  decode (.wide 0x01FC9042#32) = .mvnRegImm .eq true 12 9 0x0#5 .asr 2 := by decide +kernel

theorem test_decode_data_processing_register_amount :
  decode (.wide 0xE00A6136#32) = .andRegReg .al false 10 6 1 .lsr 6 ∧
  decode (.wide 0xA0391072#32) = .eorRegReg .ge true 9 1 0 .ror 2 ∧
  decode (.wide 0xE0495557#32) = .subRegReg .al false 9 5 5 .asr 7 ∧
  decode (.wide 0xE0732B5F#32) = .rsbRegReg .al true 3 2 11 .asr 15 ∧
  decode (.wide 0x008BB636#32) = .addRegReg .eq false 11 11 6 .lsr 6 ∧
  decode (.wide 0xA0A43E73#32) = .adcRegReg .ge false 4 3 14 .ror 3 ∧
  decode (.wide 0xE0C2E775#32) = .sbcRegReg .al false 2 14 7 .ror 5 ∧
  decode (.wide 0xE0E9A131#32) = .rscRegReg .al false 9 10 1 .lsr 1 ∧
  decode (.wide 0xC10CFE35#32) = .tstRegReg .gt false 12 15 14 .lsr 5 ∧
  decode (.wide 0x11309111#32) = .teqRegReg .ne true 0 9 1 .lsl 1 ∧
  decode (.wide 0xA148C814#32) = .cmpRegReg .ge false 8 12 8 .lsl 4 ∧
  decode (.wide 0xE1642A53#32) = .cmnRegReg .al false 4 2 10 .asr 3 ∧
  decode (.wide 0xC18CCC73#32) = .orrRegReg .gt false 12 12 12 .ror 3 ∧
  decode (.wide 0xC1AFF472#32) = .movRegReg .gt false 15 15 4 .ror 2 ∧
  decode (.wide 0xA1C51D14#32) = .bicRegReg .ge false 5 1 13 .lsl 4 ∧
  decode (.wide 0x11E0CD33#32) = .mvnRegReg .ne false 0 12 13 .lsr 3 := by decide +kernel

theorem test_decode_single_transfers :
  decode (.wide 0xE53A1724#32) = .ldrImm .al true false true 10 1 0x724#12 ∧
  decode (.wide 0xC7BC5F0A#32) = .ldrReg .gt true true true 12 5 0x1e#5 .lsl 10 ∧
  decode (.wide 0xE552B02C#32) = .ldrbImm .al true false false 2 11 0x2c#12 ∧
  decode (.wide 0x17D23465#32) = .ldrbReg .ne true true false 2 3 0x8#5 .ror 5 ∧
  decode (.wide 0xC5A9FC19#32) = .strImm .gt true true true 9 15 0xc19#12 ∧
  decode (.wide 0x17AE312E#32) = .strReg .ne true true true 14 3 0x2#5 .lsr 14 ∧
  decode (.wide 0xC4473A02#32) = .strbImm .gt false false false 7 3 0xa02#12 ∧
  decode (.wide 0xE6EAE86D#32) = .strbReg .al false true true 10 14 0x10#5 .ror 13 := by decide +kernel

theorem test_decode_formats_1_to_3 :
  decode (.narrow 0x18F8#16) = .tAddReg 3 7 0 ∧
  decode (.narrow 0x1BD4#16) = .tSubReg 7 2 4 ∧
  decode (.narrow 0x1DF7#16) = .tAddImm3 0x7#3 6 7 ∧
  decode (.narrow 0x1E97#16) = .tSubImm3 0x2#3 2 7 ∧
  decode (.narrow 0x05B0#16) = .tLslImm 0x16#5 6 0 ∧
  decode (.narrow 0x0AE0#16) = .tLsrImm 0xb#5 4 0 ∧
  decode (.narrow 0x105A#16) = .tAsrImm 0x1#5 3 2 ∧
  decode (.narrow 0x246B#16) = .tMovImm 4 0x6b#8 ∧
  decode (.narrow 0x2E46#16) = .tCmpImm 6 0x46#8 ∧
  decode (.narrow 0x33EB#16) = .tAddImm8 3 0xeb#8 ∧
  decode (.narrow 0x3837#16) = .tSubImm8 0 0x37#8 := by decide +kernel

theorem test_decode_format_4 :
  decode (.narrow 0x4036#16) = .tAnd 6 6 ∧
  decode (.narrow 0x4043#16) = .tEor 0 3 ∧
  decode (.narrow 0x40B0#16) = .tLsl 6 0 ∧
  decode (.narrow 0x40CC#16) = .tLsr 1 4 ∧
  decode (.narrow 0x4115#16) = .tAsr 2 5 ∧
  decode (.narrow 0x4177#16) = .tAdc 6 7 ∧
  decode (.narrow 0x418B#16) = .tSbc 1 3 ∧
  decode (.narrow 0x41CF#16) = .tRor 1 7 ∧
  decode (.narrow 0x4227#16) = .tTst 4 7 ∧
  decode (.narrow 0x426C#16) = .tNeg 5 4 ∧
  decode (.narrow 0x42B5#16) = .tCmp 6 5 ∧
  decode (.narrow 0x42EB#16) = .tCmn 5 3 ∧
  decode (.narrow 0x433F#16) = .tOrr 7 7 ∧
  decode (.narrow 0x435C#16) = .tMul 3 4 ∧
  decode (.narrow 0x43BD#16) = .tBic 7 5 ∧
  decode (.narrow 0x43C6#16) = .tMvn 0 6 := by decide +kernel

theorem test_decode_format_5 :
  decode (.narrow 0x44CB#16) = .tAddHiH1 9 3 ∧
  decode (.narrow 0x4462#16) = .tAddHiH2 4 2 ∧
  decode (.narrow 0x45F5#16) = .tCmpHiH1 14 5 ∧
  decode (.narrow 0x4569#16) = .tCmpHiH2 5 1 ∧
  decode (.narrow 0x46E4#16) = .tMovHiH1 12 4 ∧
  decode (.narrow 0x467C#16) = .tMovHiH2 7 4 ∧
  decode (.narrow 0x4710#16) = .tBx 2 := by decide +kernel

theorem test_decode_formats_6_to_10 :
  decode (.narrow 0x4D61#16) = .tLdrPc 5 0x61#8 ∧
  decode (.narrow 0x53F6#16) = .tStrhReg 7 6 6 ∧
  decode (.narrow 0x57E1#16) = .tLdsbReg 7 4 1 ∧
  decode (.narrow 0x5AB1#16) = .tLdrhReg 2 6 1 ∧
  decode (.narrow 0x5FE4#16) = .tLdshReg 7 4 4 ∧
  decode (.narrow 0x50A3#16) = .tStrReg 2 4 3 ∧
  decode (.narrow 0x545C#16) = .tStrbReg 1 3 4 ∧
  decode (.narrow 0x5820#16) = .tLdrReg 0 4 0 ∧
  decode (.narrow 0x5D18#16) = .tLdrbReg 4 3 0 ∧
  decode (.narrow 0x6478#16) = .tStrImm 0x11#5 7 0 ∧
  decode (.narrow 0x6C3B#16) = .tLdrImm 0x10#5 7 3 ∧
  decode (.narrow 0x7477#16) = .tStrbImm 0x11#5 6 7 ∧
  decode (.narrow 0x7C83#16) = .tLdrbImm 0x12#5 0 3 ∧
  decode (.narrow 0x80A9#16) = .tStrhImm 0x2#5 5 1 ∧
  decode (.narrow 0x88BC#16) = .tLdrhImm 0x2#5 7 4 := by decide +kernel

theorem test_decode_formats_11_to_19 :
  decode (.narrow 0x9369#16) = .tStrSp 3 0x69#8 ∧
  decode (.narrow 0x9FF4#16) = .tLdrSp 7 0xf4#8 ∧
  decode (.narrow 0xA6EC#16) = .tAddPc 6 0xec#8 ∧
  decode (.narrow 0xAB44#16) = .tAddSp 3 0x44#8 ∧
  decode (.narrow 0xB01F#16) = .tAddSpImm 0x1f#7 ∧
  decode (.narrow 0xB0BC#16) = .tSubSpImm 0x3c#7 ∧
  decode (.narrow 0xB420#16) = .tPush false 0x20#8 ∧
  decode (.narrow 0xBC56#16) = .tPop 0x56#8 ∧
  decode (.narrow 0xBD6F#16) = .tPopPc 0x6f#8 ∧
  decode (.narrow 0xC7D0#16) = .tStmia 7 0xd0#8 ∧
  decode (.narrow 0xCFE6#16) = .tLdmia 7 0xe6#8 ∧
  decode (.narrow 0xDFEB#16) = .tSwi 0xeb#8 ∧
  decode (.narrow 0xD851#16) = .tBCond .hi 0x51#8 ∧
  decode (.narrow 0xE0DE#16) = .tB 0xde#11 ∧
  decode (.narrow 0xF188#16) = .tBlFirst 0x188#11 ∧
  decode (.narrow 0xFB5B#16) = .tBlSecond 0x35b#11 := by decide +kernel

/-- The words that R116 and R131 list as examples. -/
theorem test_decode_not_recognized :
  decode (.wide 0xEC000000#32) = .nrCoprocessorSpace 0xEC000000#32 ∧
  decode (.wide 0xEE000000#32) = .nrCoprocessorSpace 0xEE000000#32 ∧
  decode (.wide 0xE6000010#32) = .nrUndefinedSpace 0xE6000010#32 ∧
  decode (.wide 0xE0400090#32) = .nrHalfwordSpace 0xE0400090#32 ∧
  decode (.wide 0xE1200090#32) = .nrHalfwordSpace 0xE1200090#32 ∧
  decode (.wide 0xE1800090#32) = .nrHalfwordSpace 0xE1800090#32 ∧
  decode (.wide 0xE00000D0#32) = .nrHalfwordSpace 0xE00000D0#32 ∧
  decode (.wide 0xE00001B0#32) = .nrHalfwordSpace 0xE00001B0#32 ∧
  decode (.wide 0xF7F000F0#32) = .nrUndefinedSpace 0xF7F000F0#32 ∧
  decode (.narrow 0x4400#16) = .nrHighRegisterSpace 0x4400#16 ∧
  decode (.narrow 0x4780#16) = .nrHighRegisterSpace 0x4780#16 ∧
  decode (.narrow 0x4701#16) = .nrHighRegisterSpace 0x4701#16 ∧
  decode (.narrow 0xDE00#16) = .nrCond14 0xDE00#16 ∧
  decode (.narrow 0xB100#16) = .nrNarrow 0xB100#16 ∧
  decode (.narrow 0xBF00#16) = .nrNarrow 0xBF00#16 ∧
  decode (.narrow 0xE800#16) = .nrNarrow 0xE800#16 := by decide +kernel

/-! ### Single steps -/

/-- A value placed in memory, lowest byte first. -/
def poke (s : State) (w : Width) (a v : Word) : State := s.setMem (placeBytes s.mem a.toNat (splitBytes v w.bytes))

/-- The reset state with the program counter of the spec's vectors, in either form. -/
def lab (narrow : Bool) : State :=
  (State.reset.setCpsr (Psr.ofWord (if narrow then 0x0000003F#32 else 0x0000001F#32))).setRawPc 0x02000100#32

/-- One vector: the word, what differs from the start state before it, its cost, what the step changes beside the sequential
advance, and whether it gives the program counter itself. -/
structure Row where
  word : Nat
  narrow : Bool
  before : List (State → State)
  cost : Nat
  after : List (State → State)
  redirects : Bool

/-- The start state of a vector with its word in place. -/
def Row.start (r : Row) : State :=
  let s := r.before.foldl (fun s f => f s) (lab r.narrow)
  poke s (if r.narrow then .half else .word) s.pc (BitVec.ofNat 32 r.word)

/-- The step gives exactly the state the vector names. -/
def Row.holds (r : Row) : Bool :=
  match step r.start with
  | .next t =>
    let e := if r.redirects then r.start else r.start.setRawPc (r.start.pc + if r.narrow then 2 else 4)
    t == (r.after.foldl (fun s f => f s) e).setCycles r.cost
  | .fault _ => false
  | .refused _ => false

/-- The step stops with a given fault. -/
def stops (narrow : Bool) (word : Nat) (before : List (State → State)) (f : Fault) : Bool :=
  match step (Row.start ⟨word, narrow, before, 0, [], false⟩) with
  | .next _ => false
  | .fault r => r == f
  | .refused _ => false

/-- spec/95_test_vectors.md section 2.8. -/
theorem test_step_software_interrupt :
    [
⟨0xEF123456, false, [fun s => s.setFlags ⟨false,true,true,false⟩], 3,
      [fun s => s.setCpsr (Psr.ofWord 0x60000093#32), fun s => s.setPhys (.lr .svc) 0x020000FC#32, fun s => s.setSpsrs (s.spsr.set .svc (Psr.ofWord 0x6000001F#32)), fun s => s.setRawPc 0x00000008#32], true⟩].all Row.holds = true := by decide +kernel

/-- spec/95_test_vectors.md section 2.5. -/
theorem test_step_branches :
    [
⟨0xE12FFF10, false, [fun s => s.setReg 0 0x02000201#32], 3,
      [fun s => s.setCpsr (Psr.ofWord 0x0000003F#32), fun s => s.setRawPc 0x02000200#32], true⟩,
     ⟨0xEA000000, false, [], 3,
      [fun s => s.setRawPc 0x02000108#32], true⟩,
     ⟨0xEB000004, false, [fun s => s.setReg 14 0x55#32], 3,
      [fun s => s.setReg 14 0x020000FC#32, fun s => s.setRawPc 0x02000118#32], true⟩].all Row.holds = true := by decide +kernel

/-- spec/95_test_vectors.md section 2.4. -/
theorem test_step_multiplies :
    [
⟨0xE0000291, false, [fun s => s.setReg 1 7#32, fun s => s.setReg 2 6#32, fun s => s.setFlags ⟨true,true,true,true⟩], 3,
      [fun s => s.setReg 0 0x2A#32], false⟩,
     ⟨0xE0203291, false, [fun s => s.setReg 1 7#32, fun s => s.setReg 2 6#32, fun s => s.setReg 3 0x64#32], 4,
      [fun s => s.setReg 0 0x8E#32], false⟩,
     ⟨0xE0810392, false, [fun s => s.setReg 2 0xFFFFFFFF#32, fun s => s.setReg 3 0xFFFFFFFF#32], 4,
      [fun s => s.setReg 0 1#32, fun s => s.setReg 1 0xFFFFFFFE#32], false⟩,
     ⟨0xE0A10392, false, [fun s => s.setReg 0 0xFFFFFFFF#32, fun s => s.setReg 1 1#32, fun s => s.setReg 2 1#32, fun s => s.setReg 3 1#32], 5,
      [fun s => s.setReg 0 0#32, fun s => s.setReg 1 2#32], false⟩,
     ⟨0xE0C10392, false, [fun s => s.setReg 2 0xFFFFFFFF#32, fun s => s.setReg 3 0xFFFFFFFF#32], 4,
      [fun s => s.setReg 0 1#32, fun s => s.setReg 1 0#32], false⟩,
     ⟨0xE0E10392, false, [fun s => s.setReg 0 1#32, fun s => s.setReg 1 0#32, fun s => s.setReg 2 0xFFFFFFFF#32, fun s => s.setReg 3 1#32], 5,
      [fun s => s.setReg 0 0#32, fun s => s.setReg 1 0#32], false⟩].all Row.holds = true := by decide +kernel

/-- spec/95_test_vectors.md section 2.7. -/
theorem test_step_blocks_and_swaps :
    [
⟨0xE1020091, false, [fun s => s.setReg 1 0xCAFE#32, fun s => s.setReg 2 0x02001000#32, fun s => poke s .word 0x02001000#32 0x11111111#32, fun s => poke s .word 0x02001004#32 0x22222222#32, fun s => poke s .word 0x02001008#32 0x33333333#32, fun s => poke s .word 0x0200100C#32 0x44444444#32], 4,
      [fun s => s.setReg 0 0x11111111#32, fun s => poke s .word 0x02001000#32 0x0000CAFE#32], false⟩,
     ⟨0xE1420091, false, [fun s => s.setReg 0 0xFFFFFFFF#32, fun s => s.setReg 1 0x1FF#32, fun s => s.setReg 2 0x02001001#32, fun s => poke s .word 0x02001000#32 0x11223344#32], 4,
      [fun s => s.setReg 0 0x33#32, fun s => poke s .word 0x02001000#32 0x1122FF44#32], false⟩,
     ⟨0xE890000E, false, [fun s => s.setReg 0 0x02001000#32, fun s => poke s .word 0x02001000#32 0x11111111#32, fun s => poke s .word 0x02001004#32 0x22222222#32, fun s => poke s .word 0x02001008#32 0x33333333#32, fun s => poke s .word 0x0200100C#32 0x44444444#32], 5,
      [fun s => s.setReg 1 0x11111111#32, fun s => s.setReg 2 0x22222222#32, fun s => s.setReg 3 0x33333333#32], false⟩,
     ⟨0xE8A0000E, false, [fun s => s.setReg 1 0xA1#32, fun s => s.setReg 2 0xA2#32, fun s => s.setReg 3 0xA3#32, fun s => s.setReg 0 0x02001000#32, fun s => poke s .word 0x02001000#32 0x11111111#32, fun s => poke s .word 0x02001004#32 0x22222222#32, fun s => poke s .word 0x02001008#32 0x33333333#32, fun s => poke s .word 0x0200100C#32 0x44444444#32], 4,
      [fun s => s.setReg 0 0x0200100C#32, fun s => poke s .word 0x02001000#32 0x000000A1#32, fun s => poke s .word 0x02001004#32 0x000000A2#32, fun s => poke s .word 0x02001008#32 0x000000A3#32], false⟩].all Row.holds = true := by decide +kernel

/-- spec/95_test_vectors.md section 2.6. -/
theorem test_step_single_transfers :
    [
⟨0xE1D100B0, false, [fun s => s.setReg 1 0x02001000#32, fun s => poke s .word 0x02001000#32 0x8001FF80#32], 3,
      [fun s => s.setReg 0 0xFF80#32], false⟩,
     ⟨0xE1B100B2, false, [fun s => s.setReg 1 0x02000FFE#32, fun s => s.setReg 2 4#32, fun s => poke s .word 0x02001000#32 0x8001FF80#32], 3,
      [fun s => s.setReg 0 0x8001#32, fun s => s.setReg 1 0x02001002#32], false⟩,
     ⟨0xE1D100D0, false, [fun s => s.setReg 1 0x02001000#32, fun s => poke s .word 0x02001000#32 0x8001FF80#32], 3,
      [fun s => s.setReg 0 0xFFFFFF80#32], false⟩,
     ⟨0xE1D100F0, false, [fun s => s.setReg 1 0x02001000#32, fun s => poke s .word 0x02001000#32 0x8001FF80#32], 3,
      [fun s => s.setReg 0 0xFFFFFF80#32], false⟩,
     ⟨0xE1C100B2, false, [fun s => s.setReg 0 0xABCD1234#32, fun s => s.setReg 1 0x02001000#32, fun s => poke s .word 0x02001000#32 0x8001FF80#32], 2,
      [fun s => poke s .word 0x02001000#32 0x1234FF80#32], false⟩,
     ⟨0xE5910000, false, [fun s => s.setReg 1 0x02001000#32, fun s => poke s .word 0x02001000#32 0x11223344#32, fun s => poke s .word 0x02001004#32 0x8899AABB#32], 3,
      [fun s => s.setReg 0 0x11223344#32], false⟩,
     ⟨0xE7910102, false, [fun s => s.setReg 1 0x02001000#32, fun s => s.setReg 2 1#32, fun s => poke s .word 0x02001000#32 0x11223344#32, fun s => poke s .word 0x02001004#32 0x8899AABB#32], 3,
      [fun s => s.setReg 0 0x8899AABB#32], false⟩,
     ⟨0xE5D10001, false, [fun s => s.setReg 1 0x02001000#32, fun s => s.setReg 0 0xFFFFFFFF#32, fun s => poke s .word 0x02001000#32 0x11223344#32, fun s => poke s .word 0x02001004#32 0x8899AABB#32], 3,
      [fun s => s.setReg 0 0x33#32], false⟩,
     ⟨0xE5810004, false, [fun s => s.setReg 0 0xDEADBEEF#32, fun s => s.setReg 1 0x02001000#32, fun s => poke s .word 0x02001000#32 0x11223344#32, fun s => poke s .word 0x02001004#32 0x8899AABB#32], 2,
      [fun s => poke s .word 0x02001004#32 0xDEADBEEF#32], false⟩,
     ⟨0xE5C10002, false, [fun s => s.setReg 0 0x1FF#32, fun s => s.setReg 1 0x02001000#32, fun s => poke s .word 0x02001000#32 0x11223344#32, fun s => poke s .word 0x02001004#32 0x8899AABB#32], 2,
      [fun s => poke s .word 0x02001000#32 0x11FF3344#32], false⟩].all Row.holds = true := by decide +kernel

/-- spec/95_test_vectors.md section 2.3. -/
theorem test_step_data_processing_1 :
    [
⟨0xE2110102, false, [fun s => s.setReg 1 0xFFFFFFFF#32], 1,
      [fun s => s.setFlags ⟨true,false,true,false⟩, fun s => s.setReg 0 0x80000000#32], false⟩,
     ⟨0xE0110002, false, [fun s => s.setReg 1 0xF0F0F0F0#32, fun s => s.setReg 2 0x0F0F0F0F#32, fun s => s.setFlags ⟨false,false,true,true⟩], 1,
      [fun s => s.setFlags ⟨false,true,true,true⟩, fun s => s.setReg 0 0#32], false⟩,
     ⟨0xE0310001, false, [fun s => s.setReg 1 0x12345678#32, fun s => s.setFlags ⟨true,false,false,true⟩], 1,
      [fun s => s.setFlags ⟨false,true,false,true⟩, fun s => s.setReg 0 0#32], false⟩,
     ⟨0xE2510001, false, [fun s => s.setReg 1 0x80000000#32], 1,
      [fun s => s.setFlags ⟨false,false,true,true⟩, fun s => s.setReg 0 0x7FFFFFFF#32], false⟩,
     ⟨0xE0510002, false, [fun s => s.setReg 1 3#32, fun s => s.setReg 2 5#32], 1,
      [fun s => s.setFlags ⟨true,false,false,false⟩, fun s => s.setReg 0 0xFFFFFFFE#32], false⟩,
     ⟨0xE2710000, false, [fun s => s.setReg 1 1#32], 1,
      [fun s => s.setFlags ⟨true,false,false,false⟩, fun s => s.setReg 0 0xFFFFFFFF#32], false⟩,
     ⟨0xE28F0000, false, [], 1,
      [fun s => s.setReg 0 0x02000108#32], false⟩,
     ⟨0xE0910002, false, [fun s => s.setReg 1 0x7FFFFFFF#32, fun s => s.setReg 2 1#32], 1,
      [fun s => s.setFlags ⟨true,false,false,true⟩, fun s => s.setReg 0 0x80000000#32], false⟩,
     ⟨0xE0910312, false, [fun s => s.setReg 1 1#32, fun s => s.setReg 2 1#32, fun s => s.setReg 3 4#32], 2,
      [fun s => s.setReg 0 0x11#32], false⟩,
     ⟨0xE0B10002, false, [fun s => s.setReg 1 0xFFFFFFFF#32, fun s => s.setReg 2 0#32, fun s => s.setFlags ⟨false,false,true,false⟩], 1,
      [fun s => s.setFlags ⟨false,true,true,false⟩, fun s => s.setReg 0 0#32], false⟩,
     ⟨0xE0D10002, false, [fun s => s.setReg 1 5#32, fun s => s.setReg 2 3#32, fun s => s.setFlags ⟨false,false,true,false⟩], 1,
      [fun s => s.setReg 0 2#32], false⟩,
     ⟨0xE2F10000, false, [fun s => s.setReg 1 0#32, fun s => s.setFlags ⟨false,false,false,false⟩], 1,
      [fun s => s.setFlags ⟨true,false,false,false⟩, fun s => s.setReg 0 0xFFFFFFFF#32], false⟩,
     ⟨0xE0F10002, false, [fun s => s.setReg 1 3#32, fun s => s.setReg 2 5#32, fun s => s.setFlags ⟨false,false,true,false⟩], 1,
      [fun s => s.setReg 0 2#32], false⟩,
     ⟨0xE3110102, false, [fun s => s.setReg 1 0x80000000#32], 1,
      [fun s => s.setFlags ⟨true,false,true,false⟩], false⟩,
     ⟨0xE1110002, false, [fun s => s.setReg 1 0xF0#32, fun s => s.setReg 2 0xF#32, fun s => s.setFlags ⟨true,false,true,true⟩], 1,
      [fun s => s.setFlags ⟨false,true,true,true⟩], false⟩,
     ⟨0xE328F20F, false, [fun s => s.setReg 8 0x0FFFFFFF#32], 1,
      [fun s => s.setFlags ⟨true,false,true,false⟩], false⟩].all Row.holds = true := by decide +kernel

/-- spec/95_test_vectors.md section 2.3. -/
theorem test_step_data_processing_2 :
    [
⟨0xE1310002, false, [fun s => s.setReg 1 0x55#32, fun s => s.setReg 2 0x55#32, fun s => s.setFlags ⟨false,false,false,true⟩], 1,
      [fun s => s.setFlags ⟨false,true,false,true⟩], false⟩,
     ⟨0xE3510102, false, [fun s => s.setReg 1 0x7FFFFFFF#32], 1,
      [fun s => s.setFlags ⟨true,false,false,true⟩], false⟩,
     ⟨0xE1510002, false, [fun s => s.setReg 1 5#32, fun s => s.setReg 2 5#32], 1,
      [fun s => s.setFlags ⟨false,true,true,false⟩], false⟩,
     ⟨0xE3710001, false, [fun s => s.setReg 1 0x7FFFFFFF#32], 1,
      [fun s => s.setFlags ⟨true,false,false,true⟩], false⟩,
     ⟨0xE1710002, false, [fun s => s.setReg 1 1#32, fun s => s.setReg 2 0xFFFFFFFF#32], 1,
      [fun s => s.setFlags ⟨false,true,true,false⟩], false⟩,
     ⟨0xE3800CFF, false, [fun s => s.setReg 0 0x00FF00FF#32], 1,
      [fun s => s.setReg 0 0x00FFFFFF#32], false⟩,
     ⟨0xE1910002, false, [fun s => s.setReg 1 0x80000000#32, fun s => s.setReg 2 1#32, fun s => s.setFlags ⟨false,false,true,true⟩], 1,
      [fun s => s.setFlags ⟨true,false,true,true⟩, fun s => s.setReg 0 0x80000001#32], false⟩,
     ⟨0xE3C100FF, false, [fun s => s.setReg 1 0x12345678#32], 1,
      [fun s => s.setReg 0 0x12345600#32], false⟩,
     ⟨0xE1D10002, false, [fun s => s.setReg 1 0xFFFFFFFF#32, fun s => s.setReg 2 0x7FFFFFFF#32], 1,
      [fun s => s.setFlags ⟨true,false,false,false⟩, fun s => s.setReg 0 0x80000000#32], false⟩,
     ⟨0xE3F00000, false, [], 1,
      [fun s => s.setFlags ⟨true,false,false,false⟩, fun s => s.setReg 0 0xFFFFFFFF#32], false⟩,
     ⟨0xE1F00001, false, [fun s => s.setReg 1 0xFFFFFFFF#32], 1,
      [fun s => s.setFlags ⟨false,true,false,false⟩, fun s => s.setReg 0 0#32], false⟩].all Row.holds = true := by decide +kernel

/-- spec/95_test_vectors.md section 2.2. -/
theorem test_step_shifter :
    [
⟨0xE3B004FF, false, [], 1,
      [fun s => s.setFlags ⟨true,false,true,false⟩, fun s => s.setReg 0 0xFF000000#32], false⟩,
     ⟨0xE1B00001, false, [fun s => s.setReg 1 0x80000001#32, fun s => s.setFlags ⟨false,false,true,false⟩], 1,
      [fun s => s.setFlags ⟨true,false,true,false⟩, fun s => s.setReg 0 0x80000001#32], false⟩,
     ⟨0xE1B00211, false, [fun s => s.setReg 1 0x80000001#32, fun s => s.setReg 2 0#32, fun s => s.setFlags ⟨false,false,true,false⟩], 2,
      [fun s => s.setFlags ⟨true,false,true,false⟩, fun s => s.setReg 0 0x80000001#32], false⟩].all Row.holds = true := by decide +kernel

/-- spec/95_test_vectors.md section 2.10. -/
theorem test_step_narrow_formats_1_to_9_1 :
    [
⟨0x1888, true, [fun s => s.setReg 1 0x7FFFFFFF#32, fun s => s.setReg 2 1#32], 1,
      [fun s => s.setFlags ⟨true,false,false,true⟩, fun s => s.setReg 0 0x80000000#32], false⟩,
     ⟨0x1A88, true, [fun s => s.setReg 1 5#32, fun s => s.setReg 2 3#32], 1,
      [fun s => s.setFlags ⟨false,false,true,false⟩, fun s => s.setReg 0 2#32], false⟩,
     ⟨0x1DC8, true, [fun s => s.setReg 1 0xFFFFFFFC#32], 1,
      [fun s => s.setFlags ⟨false,false,true,false⟩, fun s => s.setReg 0 3#32], false⟩,
     ⟨0x1E48, true, [fun s => s.setReg 1 0#32], 1,
      [fun s => s.setFlags ⟨true,false,false,false⟩, fun s => s.setReg 0 0xFFFFFFFF#32], false⟩,
     ⟨0x0008, true, [fun s => s.setReg 1 0x80000000#32, fun s => s.setFlags ⟨false,false,true,true⟩], 1,
      [fun s => s.setFlags ⟨true,false,true,true⟩, fun s => s.setReg 0 0x80000000#32], false⟩,
     ⟨0x0808, true, [fun s => s.setReg 1 0x80000000#32], 1,
      [fun s => s.setFlags ⟨false,true,true,false⟩, fun s => s.setReg 0 0#32], false⟩,
     ⟨0x1008, true, [fun s => s.setReg 1 0x80000000#32], 1,
      [fun s => s.setFlags ⟨true,false,true,false⟩, fun s => s.setReg 0 0xFFFFFFFF#32], false⟩,
     ⟨0x2000, true, [fun s => s.setReg 0 5#32, fun s => s.setFlags ⟨true,false,true,true⟩], 1,
      [fun s => s.setFlags ⟨false,true,true,true⟩, fun s => s.setReg 0 0#32], false⟩,
     ⟨0x2805, true, [fun s => s.setReg 0 5#32], 1,
      [fun s => s.setFlags ⟨false,true,true,false⟩], false⟩,
     ⟨0x30FF, true, [fun s => s.setReg 0 0xFFFFFF01#32], 1,
      [fun s => s.setFlags ⟨false,true,true,false⟩, fun s => s.setReg 0 0#32], false⟩,
     ⟨0x3801, true, [fun s => s.setReg 0 0x80000000#32], 1,
      [fun s => s.setFlags ⟨false,false,true,true⟩, fun s => s.setReg 0 0x7FFFFFFF#32], false⟩,
     ⟨0x4008, true, [fun s => s.setReg 0 0xFF00FF00#32, fun s => s.setReg 1 0x0FF00FF0#32, fun s => s.setFlags ⟨false,false,true,true⟩], 1,
      [fun s => s.setReg 0 0x0F000F00#32], false⟩,
     ⟨0x4048, true, [fun s => s.setReg 0 0xFFFFFFFF#32, fun s => s.setReg 1 0x7FFFFFFF#32], 1,
      [fun s => s.setFlags ⟨true,false,false,false⟩, fun s => s.setReg 0 0x80000000#32], false⟩,
     ⟨0x4088, true, [fun s => s.setReg 0 1#32, fun s => s.setReg 1 0x20#32], 2,
      [fun s => s.setFlags ⟨false,true,true,false⟩, fun s => s.setReg 0 0#32], false⟩,
     ⟨0x40C8, true, [fun s => s.setReg 0 0x80000000#32, fun s => s.setReg 1 0x20#32], 2,
      [fun s => s.setFlags ⟨false,true,true,false⟩, fun s => s.setReg 0 0#32], false⟩,
     ⟨0x4108, true, [fun s => s.setReg 0 0x80000000#32, fun s => s.setReg 1 0x28#32], 2,
      [fun s => s.setFlags ⟨true,false,true,false⟩, fun s => s.setReg 0 0xFFFFFFFF#32], false⟩].all Row.holds = true := by decide +kernel

/-- spec/95_test_vectors.md section 2.10. -/
theorem test_step_narrow_formats_1_to_9_2 :
    [
⟨0x4148, true, [fun s => s.setReg 0 0xFFFFFFFF#32, fun s => s.setReg 1 0#32, fun s => s.setFlags ⟨false,false,true,false⟩], 1,
      [fun s => s.setFlags ⟨false,true,true,false⟩, fun s => s.setReg 0 0#32], false⟩,
     ⟨0x4188, true, [fun s => s.setReg 0 5#32, fun s => s.setReg 1 3#32, fun s => s.setFlags ⟨false,false,false,false⟩], 1,
      [fun s => s.setFlags ⟨false,false,true,false⟩, fun s => s.setReg 0 1#32], false⟩,
     ⟨0x41C8, true, [fun s => s.setReg 0 0xF#32, fun s => s.setReg 1 4#32], 2,
      [fun s => s.setFlags ⟨true,false,true,false⟩, fun s => s.setReg 0 0xF0000000#32], false⟩,
     ⟨0x4208, true, [fun s => s.setReg 0 0xF0#32, fun s => s.setReg 1 0xF#32, fun s => s.setFlags ⟨false,false,true,false⟩], 1,
      [fun s => s.setFlags ⟨false,true,true,false⟩], false⟩,
     ⟨0x4248, true, [fun s => s.setReg 1 1#32], 1,
      [fun s => s.setFlags ⟨true,false,false,false⟩, fun s => s.setReg 0 0xFFFFFFFF#32], false⟩,
     ⟨0x4288, true, [fun s => s.setReg 0 0x80000000#32, fun s => s.setReg 1 1#32], 1,
      [fun s => s.setFlags ⟨false,false,true,true⟩], false⟩,
     ⟨0x42C8, true, [fun s => s.setReg 0 1#32, fun s => s.setReg 1 0xFFFFFFFF#32], 1,
      [fun s => s.setFlags ⟨false,true,true,false⟩], false⟩,
     ⟨0x4308, true, [fun s => s.setReg 0 0x80000000#32, fun s => s.setReg 1 1#32], 1,
      [fun s => s.setFlags ⟨true,false,false,false⟩, fun s => s.setReg 0 0x80000001#32], false⟩,
     ⟨0x4388, true, [fun s => s.setReg 0 0xFF#32, fun s => s.setReg 1 0xF#32], 1,
      [fun s => s.setReg 0 0xF0#32], false⟩,
     ⟨0x43C8, true, [fun s => s.setReg 1 0#32], 1,
      [fun s => s.setFlags ⟨true,false,false,false⟩, fun s => s.setReg 0 0xFFFFFFFF#32], false⟩,
     ⟨0x4488, true, [fun s => s.setReg 8 0x10#32, fun s => s.setReg 1 0xFFFFFFFF#32, fun s => s.setFlags ⟨false,true,false,false⟩], 1,
      [fun s => s.setReg 8 0xF#32], false⟩,
     ⟨0x4440, true, [fun s => s.setReg 0 1#32, fun s => s.setReg 8 2#32], 1,
      [fun s => s.setReg 0 3#32], false⟩,
     ⟨0x4588, true, [fun s => s.setReg 8 5#32, fun s => s.setReg 1 5#32], 1,
      [fun s => s.setFlags ⟨false,true,true,false⟩], false⟩,
     ⟨0x4549, true, [fun s => s.setReg 1 0#32, fun s => s.setReg 9 1#32], 1,
      [fun s => s.setFlags ⟨true,false,false,false⟩], false⟩,
     ⟨0x4688, true, [fun s => s.setReg 1 0x1234#32, fun s => s.setFlags ⟨true,true,true,true⟩], 1,
      [fun s => s.setReg 8 0x1234#32], false⟩,
     ⟨0x4668, true, [], 1,
      [fun s => s.setReg 0 0x03007F00#32], false⟩].all Row.holds = true := by decide +kernel

/-- spec/95_test_vectors.md section 2.10. -/
theorem test_step_narrow_formats_1_to_9_3 :
    [
⟨0x4708, true, [fun s => s.setReg 1 0x02000200#32], 3,
      [fun s => s.setCpsr (Psr.ofWord 0x0000001F#32), fun s => s.setRawPc 0x02000200#32], true⟩,
     ⟨0x4801, true, [fun s => poke s .word 0x02000108#32 0xCAFEF00D#32], 3,
      [fun s => s.setReg 0 0xCAFEF00D#32], false⟩,
     ⟨0x5288, true, [fun s => s.setReg 0 0xABCD1234#32, fun s => s.setReg 1 0x02001000#32, fun s => s.setReg 2 6#32, fun s => poke s .word 0x02001000#32 0x8001FF80#32, fun s => poke s .word 0x02001004#32 0x55667788#32], 2,
      [fun s => poke s .word 0x02001004#32 0x12347788#32], false⟩,
     ⟨0x5688, true, [fun s => s.setReg 1 0x02001000#32, fun s => s.setReg 2 0#32, fun s => poke s .word 0x02001000#32 0x8001FF80#32, fun s => poke s .word 0x02001004#32 0x55667788#32], 3,
      [fun s => s.setReg 0 0xFFFFFF80#32], false⟩,
     ⟨0x5A88, true, [fun s => s.setReg 1 0x02001000#32, fun s => s.setReg 2 2#32, fun s => poke s .word 0x02001000#32 0x8001FF80#32, fun s => poke s .word 0x02001004#32 0x55667788#32], 3,
      [fun s => s.setReg 0 0x8001#32], false⟩,
     ⟨0x5E88, true, [fun s => s.setReg 1 0x02001000#32, fun s => s.setReg 2 2#32, fun s => poke s .word 0x02001000#32 0x8001FF80#32, fun s => poke s .word 0x02001004#32 0x55667788#32], 3,
      [fun s => s.setReg 0 0xFFFF8001#32], false⟩,
     ⟨0x5088, true, [fun s => s.setReg 0 0xDEADBEEF#32, fun s => s.setReg 1 0x02001000#32, fun s => s.setReg 2 4#32, fun s => poke s .word 0x02001000#32 0x8001FF80#32, fun s => poke s .word 0x02001004#32 0x55667788#32], 2,
      [fun s => poke s .word 0x02001004#32 0xDEADBEEF#32], false⟩,
     ⟨0x5488, true, [fun s => s.setReg 0 0x1AB#32, fun s => s.setReg 1 0x02001000#32, fun s => s.setReg 2 5#32, fun s => poke s .word 0x02001000#32 0x8001FF80#32, fun s => poke s .word 0x02001004#32 0x55667788#32], 2,
      [fun s => poke s .word 0x02001004#32 0x5566AB88#32], false⟩,
     ⟨0x5888, true, [fun s => s.setReg 1 0x02001000#32, fun s => s.setReg 2 4#32, fun s => poke s .word 0x02001000#32 0x8001FF80#32, fun s => poke s .word 0x02001004#32 0x55667788#32], 3,
      [fun s => s.setReg 0 0x55667788#32], false⟩,
     ⟨0x5C88, true, [fun s => s.setReg 1 0x02001000#32, fun s => s.setReg 2 1#32, fun s => poke s .word 0x02001000#32 0x8001FF80#32, fun s => poke s .word 0x02001004#32 0x55667788#32], 3,
      [fun s => s.setReg 0 0xFF#32], false⟩,
     ⟨0x6048, true, [fun s => s.setReg 0 0xDEADBEEF#32, fun s => s.setReg 1 0x02001000#32, fun s => poke s .word 0x02001000#32 0x8001FF80#32, fun s => poke s .word 0x02001004#32 0x55667788#32], 2,
      [fun s => poke s .word 0x02001004#32 0xDEADBEEF#32], false⟩,
     ⟨0x6FC8, true, [fun s => s.setReg 1 0x02000F88#32, fun s => poke s .word 0x02001000#32 0x8001FF80#32, fun s => poke s .word 0x02001004#32 0x55667788#32], 3,
      [fun s => s.setReg 0 0x55667788#32], false⟩,
     ⟨0x77C8, true, [fun s => s.setReg 0 0xEE#32, fun s => s.setReg 1 0x02000FE8#32, fun s => poke s .word 0x02001000#32 0x8001FF80#32, fun s => poke s .word 0x02001004#32 0x55667788#32], 2,
      [fun s => poke s .word 0x02001004#32 0xEE667788#32], false⟩,
     ⟨0x78C8, true, [fun s => s.setReg 1 0x02001000#32, fun s => poke s .word 0x02001000#32 0x8001FF80#32, fun s => poke s .word 0x02001004#32 0x55667788#32], 3,
      [fun s => s.setReg 0 0x80#32], false⟩].all Row.holds = true := by decide +kernel

/-- spec/95_test_vectors.md section 2.11. -/
theorem test_step_narrow_formats_10_to_19_1 :
    [
⟨0x8048, true, [fun s => s.setReg 0 0xABCD1234#32, fun s => s.setReg 1 0x02001000#32, fun s => poke s .word 0x02001000#32 0x8001FF80#32, fun s => poke s .word 0x02001004#32 0x55667788#32], 2,
      [fun s => poke s .word 0x02001000#32 0x1234FF80#32], false⟩,
     ⟨0x8FC8, true, [fun s => s.setReg 1 0x02000FC4#32, fun s => poke s .word 0x02001000#32 0x8001FF80#32, fun s => poke s .word 0x02001004#32 0x55667788#32], 3,
      [fun s => s.setReg 0 0x8001#32], false⟩,
     ⟨0x9001, true, [fun s => s.setReg 0 0x1234#32, fun s => s.setReg 13 0x02001000#32, fun s => poke s .word 0x02001000#32 0x8001FF80#32, fun s => poke s .word 0x02001004#32 0x55667788#32], 2,
      [fun s => poke s .word 0x02001004#32 0x00001234#32], false⟩,
     ⟨0x98FF, true, [fun s => s.setReg 13 0x02000C08#32, fun s => poke s .word 0x02001000#32 0x8001FF80#32, fun s => poke s .word 0x02001004#32 0x55667788#32], 3,
      [fun s => s.setReg 0 0x55667788#32], false⟩,
     ⟨0xA001, true, [fun s => s.setRawPc 0x02000102#32], 1,
      [fun s => s.setReg 0 0x02000108#32], false⟩,
     ⟨0xA802, true, [fun s => s.setFlags ⟨true,true,true,true⟩], 1,
      [fun s => s.setReg 0 0x03007F08#32], false⟩,
     ⟨0xB07F, true, [], 1,
      [fun s => s.setReg 13 0x030080FC#32], false⟩,
     ⟨0xB084, true, [fun s => s.setFlags ⟨true,true,true,true⟩], 1,
      [fun s => s.setReg 13 0x03007EF0#32], false⟩,
     ⟨0xB403, true, [fun s => s.setReg 0 0xA0#32, fun s => s.setReg 1 0xA1#32, fun s => s.setReg 13 0x02001008#32, fun s => poke s .word 0x02001000#32 0x8001FF80#32, fun s => poke s .word 0x02001004#32 0x55667788#32], 3,
      [fun s => s.setReg 13 0x02001000#32, fun s => poke s .word 0x02001000#32 0x000000A0#32, fun s => poke s .word 0x02001004#32 0x000000A1#32], false⟩,
     ⟨0xBC03, true, [fun s => s.setReg 13 0x02001000#32, fun s => poke s .word 0x02001000#32 0x8001FF80#32, fun s => poke s .word 0x02001004#32 0x55667788#32], 4,
      [fun s => s.setReg 0 0x8001FF80#32, fun s => s.setReg 1 0x55667788#32, fun s => s.setReg 13 0x02001008#32], false⟩,
     ⟨0xBD01, true, [fun s => s.setReg 13 0x02001000#32, fun s => poke s .word 0x02001000#32 0x00000077#32, fun s => poke s .word 0x02001004#32 0x02000301#32], 6,
      [fun s => s.setReg 0 0x77#32, fun s => s.setReg 13 0x02001008#32, fun s => s.setRawPc 0x02000300#32], true⟩,
     ⟨0xC203, true, [fun s => s.setReg 0 0xA0#32, fun s => s.setReg 1 0xA1#32, fun s => s.setReg 2 0x02001000#32, fun s => poke s .word 0x02001000#32 0x8001FF80#32, fun s => poke s .word 0x02001004#32 0x55667788#32], 3,
      [fun s => s.setReg 2 0x02001008#32, fun s => poke s .word 0x02001000#32 0x000000A0#32, fun s => poke s .word 0x02001004#32 0x000000A1#32], false⟩,
     ⟨0xCA03, true, [fun s => s.setReg 2 0x02001000#32, fun s => poke s .word 0x02001000#32 0x8001FF80#32, fun s => poke s .word 0x02001004#32 0x55667788#32], 4,
      [fun s => s.setReg 0 0x8001FF80#32, fun s => s.setReg 1 0x55667788#32, fun s => s.setReg 2 0x02001008#32], false⟩,
     ⟨0xDF05, true, [fun s => s.setCpsr (Psr.ofWord 0x6000003F#32)], 3,
      [fun s => s.setCpsr (Psr.ofWord 0x60000093#32), fun s => s.setPhys (.lr .svc) 0x020000FC#32, fun s => s.setSpsrs (s.spsr.set .svc (Psr.ofWord 0x6000003F#32)), fun s => s.setRawPc 0x00000008#32], true⟩,
     ⟨0xD003, true, [fun s => s.setFlags ⟨false,true,false,false⟩], 3,
      [fun s => s.setRawPc 0x0200010A#32], true⟩,
     ⟨0xE3FF, true, [], 3,
      [fun s => s.setRawPc 0x02000902#32], true⟩].all Row.holds = true := by decide +kernel

/-- spec/95_test_vectors.md section 2.11. -/
theorem test_step_narrow_formats_10_to_19_2 :
    [
⟨0xF001, true, [fun s => s.setReg 14 0x55#32], 1,
      [fun s => s.setReg 14 0x02001104#32], false⟩,
     ⟨0xF810, true, [fun s => s.setReg 14 0x02001104#32], 3,
      [fun s => s.setReg 14 0x020000FC#32, fun s => s.setRawPc 0x02001124#32], true⟩].all Row.holds = true := by decide +kernel

/-- Computed by hand from R188 to R203 and R167 to R171: the register-amount forms that the spec's vectors leave out. -/
theorem test_step_register_amounts :
    [⟨0xE0010312, false, [fun s => s.setReg 1 0xF0F0#32, fun s => s.setReg 2 0xFF#32, fun s => s.setReg 3 4#32], 2,
      [fun s => s.setReg 0 0x00F0#32], false⟩,
     ⟨0xE0310332, false, [fun s => s.setReg 1 1#32, fun s => s.setReg 2 0x180#32, fun s => s.setReg 3 8#32], 2,
      [fun s => s.setReg 0 0#32, fun s => s.setFlags ⟨false, true, true, false⟩], false⟩,
     ⟨0xE0510352, false, [fun s => s.setReg 2 0x80000000#32, fun s => s.setReg 3 31#32], 2,
      [fun s => s.setReg 0 1#32], false⟩,
     ⟨0xE0610372, false, [fun s => s.setReg 1 1#32, fun s => s.setReg 2 0x10#32, fun s => s.setReg 3 4#32], 2,
      [fun s => s.setReg 0 0#32], false⟩,
     ⟨0xE0B10312, false, [fun s => s.setReg 1 0x7FFFFFFF#32, fun s => s.setFlags ⟨false, false, true, false⟩], 2,
      [fun s => s.setReg 0 0x80000000#32, fun s => s.setFlags ⟨true, false, false, true⟩], false⟩,
     ⟨0xE0D10312, false, [fun s => s.setReg 2 1#32, fun s => s.setReg 3 1#32,
        fun s => s.setFlags ⟨false, false, true, false⟩], 2,
      [fun s => s.setReg 0 0xFFFFFFFE#32, fun s => s.setFlags ⟨true, false, false, false⟩], false⟩,
     ⟨0xE0E10312, false, [fun s => s.setReg 1 1#32, fun s => s.setReg 2 1#32, fun s => s.setReg 3 3#32], 2,
      [fun s => s.setReg 0 6#32], false⟩,
     ⟨0xE1110312, false, [fun s => s.setReg 1 1#32, fun s => s.setReg 2 1#32, fun s => s.setReg 3 32#32], 2,
      [fun s => s.setFlags ⟨false, true, true, false⟩], false⟩,
     ⟨0xE1310332, false, [fun s => s.setReg 1 0x80000000#32, fun s => s.setReg 3 1#32], 2,
      [fun s => s.setFlags ⟨true, false, false, false⟩], false⟩,
     ⟨0xE1510312, false, [fun s => s.setReg 1 4#32, fun s => s.setReg 2 1#32, fun s => s.setReg 3 2#32], 2,
      [fun s => s.setFlags ⟨false, true, true, false⟩], false⟩,
     ⟨0xE1710312, false, [fun s => s.setReg 1 0xFFFFFFFF#32, fun s => s.setReg 2 1#32], 2,
      [fun s => s.setFlags ⟨false, true, true, false⟩], false⟩,
     ⟨0xE1810312, false, [fun s => s.setReg 1 1#32, fun s => s.setReg 2 1#32, fun s => s.setReg 3 255#32], 2,
      [fun s => s.setReg 0 1#32], false⟩,
     ⟨0xE1C10312, false, [fun s => s.setReg 1 0xFF#32, fun s => s.setReg 2 0xF#32, fun s => s.setReg 3 4#32], 2,
      [fun s => s.setReg 0 0x0F#32], false⟩,
     ⟨0xE1E00312, false, [fun s => s.setReg 2 1#32, fun s => s.setReg 3 4#32], 2,
      [fun s => s.setReg 0 0xFFFFFFEF#32], false⟩].all Row.holds = true := by decide +kernel

/-- Computed by hand from R189, R191, R193 and R194. -/
theorem test_step_data_processing_more :
    [⟨0xE22100FF, false, [fun s => s.setReg 1 0x0F#32], 1, [fun s => s.setReg 0 0xF0#32], false⟩,
     ⟨0xE0710002, false, [fun s => s.setReg 1 3#32, fun s => s.setReg 2 1#32], 1,
      [fun s => s.setReg 0 0xFFFFFFFE#32, fun s => s.setFlags ⟨true, false, false, false⟩], false⟩,
     ⟨0xE2A10001, false, [fun s => s.setReg 1 0xFFFFFFFF#32, fun s => s.setFlags ⟨false, false, true, false⟩], 1,
      [fun s => s.setReg 0 1#32], false⟩,
     ⟨0xE2C10001, false, [fun s => s.setReg 1 5#32], 1, [fun s => s.setReg 0 3#32], false⟩].all Row.holds = true := by
  decide +kernel

/-- Computed by hand from R252, R260, R261, R263 and R265 to R267. -/
theorem test_step_register_offsets :
    [⟨0xE19100D2, false, [fun s => s.setReg 1 0x02001000#32, fun s => s.setReg 2 1#32,
        fun s => poke s .byte 0x02001001#32 0x80#32], 3, [fun s => s.setReg 0 0xFFFFFF80#32], false⟩,
     ⟨0xE19100F2, false, [fun s => s.setReg 1 0x02001000#32, fun s => s.setReg 2 2#32,
        fun s => poke s .half 0x02001002#32 0x8001#32], 3, [fun s => s.setReg 0 0xFFFF8001#32], false⟩,
     ⟨0xE18100B2, false, [fun s => s.setReg 0 0x12345678#32, fun s => s.setReg 1 0x02001000#32, fun s => s.setReg 2 2#32], 2,
      [fun s => poke s .half 0x02001002#32 0x5678#32], false⟩,
     ⟨0xE7D10102, false, [fun s => s.setReg 1 0x02001000#32, fun s => s.setReg 2 1#32,
        fun s => poke s .byte 0x02001004#32 0xAB#32], 3, [fun s => s.setReg 0 0xAB#32], false⟩,
     ⟨0xE7810002, false, [fun s => s.setReg 0 0x12345678#32, fun s => s.setReg 1 0x02001000#32, fun s => s.setReg 2 4#32], 2,
      [fun s => poke s .word 0x02001004#32 0x12345678#32], false⟩,
     ⟨0xE7410002, false, [fun s => s.setReg 0 0x12345678#32, fun s => s.setReg 1 0x02001001#32, fun s => s.setReg 2 1#32], 2,
      [fun s => poke s .byte 0x02001000#32 0x78#32], false⟩].all Row.holds = true := by decide +kernel

/-- The fields that R216 and R338 give after a flag-setting multiply; C and V are left open. -/
theorem test_step_multiply_flags :
    (match step (Row.start ⟨0xE0100291, false, [fun s => s.setReg 1 0xFFFFFFFF#32, fun s => s.setReg 2 2#32], 0, [], false⟩) with
      | .next t => t.reg 0 == 0xFFFFFFFE#32 && t.cpsr.n && !t.cpsr.z && t.cycles == 3 && t.draws == 1
      | .fault _ => false
      | .refused _ => false) = true ∧
    (match step (Row.start ⟨0x4348, true, [fun s => s.setReg 0 7#32, fun s => s.setReg 1 6#32], 0, [], false⟩) with
      | .next t => t.reg 0 == 0x2A#32 && !t.cpsr.n && !t.cpsr.z && t.pc == 0x02000102#32
      | .fault _ => false
      | .refused _ => false) = true := by decide +kernel

/-- The refusals of R33, R38, R73, R167, R214, R255, R289, R291 and R381, and the errors of R304, with the spec's own words where it
gives one. -/
theorem test_step_refusals :
    stops false 0xE0810391 [] .rdHiEqRdLo = false ∧
    stops false 0xE0800391 [] .rdHiEqRdLo = true ∧
    stops false 0xE000029F [] .r15InMultiply = true ∧
    stops false 0xE1A0F211 [] .r15WithRegisterShift = true ∧
    stops false 0xE10F0091 [] .r15InSwap = true ∧
    stops false 0xE49F0004 [] .baseR15WithWriteback = true ∧
    stops false 0xE8900000 [] .emptyList = true ∧
    stops true 0xB400 [] .emptyList = true ∧
    stops false 0xE89F0001 [] .baseR15 = true ∧
    stops false 0xE8F06000 [] .userBankWithWriteback = true ∧
    stops false 0xE8B00003 [] .baseInListWithWriteback = true ∧
    stops true 0xC103 [] .baseInListWithWriteback = true ∧
    stops false 0xE29EF004 [] .spsrInUsrSys = true ∧
    stops false 0xE29EF004 [fun s => s.setCpsr (Psr.ofWord 0x00000012#32)] .illegalMode = true ∧
    stops false 0xE5910001 [] .misaligned = true ∧
    stops false 0xEE000000 [] (.decodeError 0x02000100#32 0xEE000000#32) = true ∧
    stops true 0xE800 [] (.decodeError 0x02000100#32 0xE800#32) = true := by decide +kernel

/-- The worked examples of R441: wide from 0x1000 and narrow from 0x08000102. -/
theorem test_step_interrupt :
    (match step (((((State.reset.requestInterrupt 0).setRawPc 0x1000#32).setIe 1#14)).setIme true) with
      | .next t =>
        t.pc == 0x18#32 && t.cpsr.toWord == 0x92#32 && t.phys (.lr .irq) == 0xFFC#32 && t.spsr.irq.toWord == 0x1F#32 &&
          t.ifr == 0 && !t.halted && t.cycles == 3
      | .fault _ => false
      | .refused _ => false) = true ∧
    (match step (((((State.reset.requestInterrupt 4).setRawPc 0x08000102#32).setIe 0x10#14).setIme true).setCpsr
        (Psr.ofWord 0x3F#32)) with
      | .next t =>
        t.pc == 0x18#32 && t.cpsr.toWord == 0x92#32 && t.phys (.lr .irq) == 0x080000FE#32 && t.spsr.irq.toWord == 0x3F#32
      | .fault _ => false
      | .refused _ => false) = true := by decide +kernel

/-- The worked examples of R423 to R427. -/
theorem test_interrupt_controller :
    (State.reset.memWrite .half 0x04000200#32 0xFFFF#32).ie = 0x3FFF#14 ∧
    (((State.reset.setIe 0x3FFF#14).setIfr 1#14).memRead .word 0x04000200#32).1 = 0x00013FFF#32 ∧
    ((State.reset.setIfr 0x1005#14).memWrite .half 0x04000202#32 0x0004#32).ifr = 0x1001#14 ∧
    ((State.reset.setIfr 0x1001#14).memWrite .byte 0x04000203#32 0xFF#32).ifr = 0x0001#14 ∧
    (State.reset.memWrite .word 0x04000208#32 0xFFFFFFFE#32).ime = false ∧
    (State.reset.memWrite .word 0x04000208#32 0x00000003#32).ime = true ∧
    (State.reset.memWrite .byte 0x04000301#32 0x80#32).halted = false ∧
    (State.reset.memWrite .byte 0x04000301#32 0x7F#32).halted = true := by decide +kernel

/-- Each way a snapshot is malformed (R481), one field changed at a time: missing, of the wrong width, no mode, mode or width flag at
odds with CPSR, a bit above 13, r15 not aligned; and IE in sixteen bits that is not malformed. -/
theorem test_snapshots_malformed :
    let saved := State.reset.saveState
    (∀ f ∈ [SnapshotField.reg (.sp .und), .cpsr, .spsr .abt, .mode, .instructionWidthFlag, .cycles, .ie, .ifr, .ime, .halted],
      Snapshot.wellFormed (saved.filter fun e => e.1 != f) = false) ∧
    (∀ e ∈ [(SnapshotField.reg (.midFiq 4), FieldValue.bits 16 0), (.spsr .svc, .bits 31 0), (.cycles, .bits 64 0),
        (.ime, .number 0), (.ie, .bits 13 0), (.cpsr, .bits 32 0x00000000#32), (.mode, .bits 5 0b10010#5),
        (.instructionWidthFlag, .bits 1 1#1), (.ie, .bits 16 0x4000#16), (.ifr, .bits 16 0x8000#16),
        (.reg .pc, .bits 32 0x00000002#32)],
      Snapshot.wellFormed (e :: saved) = false) ∧
    Snapshot.wellFormed saved = true ∧ Snapshot.wellFormed ((.ie, .bits 16 0x3FFF#16) :: saved) = true ∧
    Snapshot.wellFormed ((.reg .pc, .bits 32 0x08000000#32) :: saved) = true := by decide +kernel

/-- The cartridge range under the default map (R68, R70): the image, then open bus, then the save memory; an image longer than the range
does not reach the save memory (log entry 19). -/
theorem test_cartridge_range :
    kindAt (gbaMap 0x100 true) 0x080000FF#32 = .rom ∧ kindAt (gbaMap 0x100 true) 0x08000100#32 = .open1 ∧
      kindAt (gbaMap 0x0A000000 true) 0x0DFFFFFF#32 = .rom ∧ kindAt (gbaMap 0x0A000000 true) 0x0E000000#32 = .device ∧
      kindAt (gbaMap 0x0A000000 false) 0x0E00FFFF#32 = .open1 ∧ kindAt (gbaMap 0x0A000000 true) 0x0E010000#32 = .open0 := by
  decide +kernel

/-- A word of each width placed by `withFetchWord` is the one the next step fetches. -/
theorem test_fetch_word :
    decode (State.reset.withFetchWord 32 0xEB000004).fetch.1 = .bl .al 4 ∧
      decode (State.reset.withFetchWord 16 0xDF05).fetch.1 = .tSwi 5 := by decide +kernel


/-! ### Witnesses: the hypotheses of every obligation that has some, met together -/

theorem witness_DecodeOfEncode :
    (Instr.bx .al 14).wellFormed = true ∧ (Instr.teqRegReg .al true 15 15 15 .lsl 0).wellFormed = true ∧
      (Instr.tBCond .le 0xFF#8).wellFormed = true ∧ (Instr.nrNarrow 0xEFFF#16).wellFormed = true := by decide

theorem witness_StepRunsDecodedInstruction :
    ∀ s ∈ [lab false, lab true, State.reset], s.checkPending = false ∧ s.halted = false ∧
      (∀ cat, (decode s.fetch.1).category = some cat → cat ∉ s.cfg.unimplemented) ∧
      ∀ k, k < (fetchWidth s.cpsr.t).bytes → s.kind (byteAddr ((fetchWidth s.cpsr.t).alignDown s.pc) k) ≠ .device := by
  intro s hs
  have hu : s.cfg.unimplemented = [] := by
    simp only [List.mem_cons, List.not_mem_nil, or_false] at hs
    rcases hs with rfl | rfl | rfl <;> rfl
  refine ⟨?_, ?_, fun cat _ => by simp [hu], ?_⟩ <;>
    (revert s; decide +kernel)

theorem witness_FetchReadsCurrentBytes :
    ∀ s ∈ [lab false, (lab true).setRawPc 0x03007FFE#32], s.pcAligned ∧ InMemory (fetchWidth s.cpsr.t).bytes s.pc s := by
  unfold State.pcAligned InMemory; decide +kernel

theorem witness_HaltedStepIdles :
    ∀ s ∈ [State.reset.setHalted true, ((State.reset.setHalted true).setIme true).setIe 1#14],
      s.halted = true ∧ (s.ime = false ∨ s.ie &&& s.ifr = 0) := by decide +kernel

theorem witness_FailingCondition :
    condOf (.bx .eq 0) = some .eq ∧ State.reset.passes .eq = false ∧ condOf (.ldm .nv true true false false 0 1) = some .nv ∧
      State.reset.passes .nv = false := by decide +kernel

/-- A step that answers a next state from a state that meets every invariant. -/
theorem witness_invariants :
    ∃ t, State.reset.memCanonical ∧ State.reset.pcAligned ∧ State.reset.modeLegal ∧ State.reset.reservedClear ∧
      State.reset.modesReached ∧ State.reset.cfg.cost.wf = true ∧ step State.reset = .next t :=
  ⟨_, ⟨List.Pairwise.nil, by simp [State.reset, State.resetWith]⟩, rfl, rfl, ⟨rfl, by intro e; cases e <;> rfl⟩,
    ⟨by decide, fun e => .inl (by cases e <;> rfl)⟩, rfl, rfl⟩

/-- Both kinds of entry, the restore and both branch-exchanges are steps that answer a next state. -/
theorem witness_StatusWriters :
    ∀ r ∈ [(0xEF000000, false, 0x1F#32), (0xDF00, true, 0x3F#32), (0xE12FFF1F, false, 0x1F#32), (0x4778, true, 0x3F#32)],
      (match step (Row.start ⟨r.1, r.2.1, [fun s => s.setCpsr (Psr.ofWord r.2.2)], 0, [], false⟩) with
        | .next _ => true
        | .fault _ => false
        | .refused _ => false) = true := by decide +kernel

theorem witness_OnlyRamChanges :
    State.reset.kind 0#32 ≠ .ram ∧ State.reset.kind 0x01FFFFFF#32 ≠ .ram ∧ State.reset.kind 0x02040000#32 ≠ .ram := by
  decide +kernel

theorem witness_InterruptServicing :
    ∀ s ∈ [((State.reset.setIe 1#14).setIfr 1#14).setIme true, ((State.reset.setIe 0x2000#14).setIfr 0x2000#14).setIme true],
      s.ime = true ∧ s.ie &&& s.ifr ≠ 0 := by decide +kernel

/-- The register addresses are pairwise different and every one lies in the interrupt controller (`IntcReads`, `IntcWrites`). -/
theorem witness_Intc :
    [State.reset.cfg.addrIe, State.reset.cfg.addrIe + 1, State.reset.cfg.addrIf, State.reset.cfg.addrIf + 1,
      State.reset.cfg.addrIme, State.reset.cfg.addrIme + 1, State.reset.cfg.addrIme + 2, State.reset.cfg.addrIme + 3,
      State.reset.cfg.addrHaltcnt] =
      [0x04000200#32, 0x04000201#32, 0x04000202#32, 0x04000203#32, 0x04000208#32, 0x04000209#32, 0x0400020A#32,
        0x0400020B#32, 0x04000301#32] ∧
    [0x04000200#32, 0x04000201#32, 0x04000202#32, 0x04000203#32, 0x04000208#32, 0x04000209#32, 0x0400020A#32,
      0x0400020B#32, 0x04000301#32].Nodup ∧
    ([0x04000200#32, 0x04000201#32, 0x04000202#32, 0x04000203#32, 0x04000208#32, 0x04000209#32, 0x0400020A#32,
      0x0400020B#32, 0x04000301#32].all fun p => State.reset.kind p == .intc) = true := by
  refine ⟨by decide, by decide, by decide +kernel⟩

theorem witness_ReturnResumes :
    (∀ s ∈ [((State.reset.setIe 1#14).setIfr 1#14).setIme true, lab false, lab true], s.pcAligned ∧ s.modeLegal) ∧
      (((State.reset.setIe 1#14).setIfr 1#14).setIme true).checkPending = true ∧
      (lab false).cpsr.t = false ∧ (lab false).passes .al = true ∧ (lab true).cpsr.t = true := by
  unfold State.pcAligned State.modeLegal; decide +kernel

theorem witness_PhysicalRegistersSeparate : PhysReg.sp .irq ≠ PhysReg.sp .usr ∧ PhysReg.low 0 ≠ PhysReg.pc := by decide

/-- Each width at the first and the last place of a RAM region. -/
theorem witness_StoreThenLoad :
    State.reset.memCanonical ∧
      ∀ x ∈ [(Width.byte, 0x03000000#32), (.half, 0x03000000#32), (.word, 0x03000000#32), (.byte, 0x03007FFF#32),
        (.half, 0x03007FFE#32), (.word, 0x03007FFC#32)],
        x.1.aligned x.2 = true ∧ ∀ k, k < x.1.bytes → State.reset.kind (byteAddr x.2 k) = .ram := by
  refine ⟨⟨List.Pairwise.nil, by simp [State.reset, State.resetWith]⟩, ?_⟩
  decide +kernel

/-- Each kind of load at the end of a RAM region and of the ROM, and sixteen words at the end of RAM. -/
theorem witness_LoadedValue :
    (∀ x ∈ [(LoadKind.word, 0x03007FFC#32), (.byte, 0x03007FFF#32), (.half, 0x00003FFE#32), (.signedByte, 0x00000000#32),
        (.signedHalf, 0x0203FFFE#32)],
        x.1.width.aligned x.2 = true ∧ InMemory x.1.width.bytes x.2 State.reset) ∧
      Width.word.aligned 0x03007FC0#32 = true ∧ InMemory (4 * 16) 0x03007FC0#32 State.reset ∧ 15 < 16 := by
  unfold InMemory; decide +kernel

theorem witness_MisalignedPolicies :
    (State.reset.setCfg { Config.default with misalign := .forceAlign }).cfg.misalign = .forceAlign ∧
      (State.reset.setCfg { Config.default with misalign := .rotate }).cfg.misalign = .rotate ∧
      (0x03000001#32).getLsbD 0 = true := by decide +kernel

theorem witness_DroppedWritesAndOpenReads :
    State.reset.kind 0x00003FFF#32 = .rom ∧ State.reset.kind 0x08000000#32 = .open1 ∧ State.reset.kind 0x00004000#32 = .open0 ∧
      (∀ r ∈ State.reset.cfg.memMap, ¬ (r.lo ≤ (0x00004000#32).toNat ∧ (0x00004000#32).toNat ≤ r.hi)) := by
  decide +kernel

theorem witness_ArithmeticResults :
    ∀ op ∈ [AluOp.sub, .cmp, .rsb, .add, .cmn, .adc, .sbc, .rsc],
      ∃ x y, exactArith op (0x80000000#32).toNat (1#32).toNat 1 = some x ∧
        exactArith op (0x80000000#32).toInt (1#32).toInt 1 = some y := by
  intro op h
  simp only [List.mem_cons, List.not_mem_nil, or_false] at h
  rcases h with rfl | rfl | rfl | rfl | rfl | rfl | rfl | rfl <;> exact ⟨_, _, rfl, rfl⟩

theorem witness_LogicalResults :
    ∀ op ∈ [AluOp.and, .tst, .eor, .teq, .orr, .mov, .bic, .mvn], (logicBit op false false).isSome = true := by decide

/-- The three operand forms under the hypotheses of `DataProcessing`, with a comparison and with an operation that writes. -/
theorem witness_DataProcessing :
    State.reset.passes .al = true ∧
      (∀ o ∈ [Operand2.imm 0 0, .regImm 0 .lsl 15], ∀ rs ty rm, o = .regReg rs ty rm →
        (14 : Reg) ≠ 15 ∧ (15 : Reg) ≠ 15 ∧ rm ≠ 15 ∧ rs ≠ 15) ∧
      (∀ rs ty rm, Operand2.regReg 14 .ror 14 = .regReg rs ty rm → (14 : Reg) ≠ 15 ∧ (0 : Reg) ≠ 15 ∧ rm ≠ 15 ∧ rs ≠ 15) ∧
      AluOp.cmp ∈ [AluOp.tst, .teq, .cmp, .cmn] ∧ AluOp.sub ∉ [AluOp.tst, .teq, .cmp, .cmn] := by
  refine ⟨rfl, ?_, ?_, by decide, by decide⟩
  · intro o ho rs ty rm h
    simp only [List.mem_cons, List.not_mem_nil, or_false] at ho
    rcases ho with rfl | rfl <;> cases h
  · intro rs ty rm h
    cases h
    decide

/-- IRQ mode with a saved SYS status: the exception-return clauses of `DataProcessingIntoPc` and `BlockExceptionReturn`. -/
def handler : State := (State.reset.setCpsr (Psr.ofWord 0x92#32)).setSpsrs (State.reset.spsr.set .irq (Psr.ofWord 0x1F#32))

theorem witness_DataProcessingIntoPc :
    handler.passes .al = true ∧ AluOp.add ∉ [AluOp.tst, .teq, .cmp, .cmn] ∧
      (∀ rs ty rm, Operand2.imm 0 4 ≠ .regReg rs ty rm) ∧ handler.excMode = some .irq ∧
      Mode.ofBits (handler.spsr.get .irq).m = some .sys ∧ State.reset.cpsr.m = Mode.sys.bits := by
  refine ⟨rfl, by decide, ?_, rfl, rfl, rfl⟩
  intro rs ty rm h
  cases h

theorem witness_Multiplies :
    State.reset.passes .al = true ∧ (14 : Reg) ≠ 15 ∧ (0 : Reg) ≠ 15 ∧ (13 : Reg) ≠ 15 ∧ (13 : Reg) ≠ 14 := by decide +kernel

theorem witness_WideBranches :
    State.reset.passes .al = true ∧ State.reset.passes .ne = true ∧ State.reset.passes .eq = false := by decide +kernel

theorem witness_SoftwareInterrupt :
    (∃ c x, Instr.swi .al 0 = .swi c x ∧ State.reset.passes c = true) ∧ (∃ x, Instr.tSwi 0 = .tSwi x) ∧
      State.reset.passes .eq = false :=
  ⟨⟨_, _, rfl, rfl⟩, ⟨_, rfl⟩, rfl⟩

/-- A post-indexed load with the base and the destination different, and a load into r15. -/
theorem witness_WideLoads :
    ∀ i ∈ [Instr.ldrImm .al false true false 1 0 4, .ldrReg .al true true false 15 15 0 .lsl 2,
        .ldrsbReg .al true false true 1 0 2], ∃ x k, singleOf i State.reset = some x ∧ x.acc = .load k ∧
          State.reset.passes x.c = true ∧ ¬ (x.rn = 15 ∧ x.wb = true) ∧
          State.reset.misaligned k.width (x.addr State.reset) = false := by
  intro i h
  simp only [List.mem_cons, List.not_mem_nil, or_false] at h
  rcases h with rfl | rfl | rfl <;> exact ⟨_, _, rfl, rfl, rfl, by decide +kernel, by decide +kernel⟩

theorem witness_WideStores :
    State.reset.memCanonical ∧ ∀ i ∈ [Instr.strImm .al true true true 13 15 4, .strhImm .al false true false 1 0 2,
        .strbReg .al true true false 1 0 0 .lsl 2], ∃ x w, singleOf i State.reset = some x ∧ x.acc = .store w ∧
          State.reset.passes x.c = true ∧ ¬ (x.rn = 15 ∧ x.wb = true) ∧
          State.reset.misaligned w (x.addr State.reset) = false := by
  refine ⟨⟨List.Pairwise.nil, by simp [State.reset, State.resetWith]⟩, ?_⟩
  intro i h
  simp only [List.mem_cons, List.not_mem_nil, or_false] at h
  rcases h with rfl | rfl | rfl <;> exact ⟨_, _, rfl, rfl, rfl, by decide +kernel, by decide +kernel⟩

/-- A list of one register, a full list, a user-bank list, POP with r15 and LDMIA with its base in the list. -/
theorem witness_BlockLoads :
    ∀ i ∈ [Instr.ldm .al true true false true 13 0x0001#16, .ldm .al false true false false 13 0xFFFF#16,
        .ldm .al false true true false 13 0x7FFF#16, .tPop 0xFF#8, .tPopPc 0#8, .tLdmia 0 0x03#8],
      ∃ c x, blockOf i = some (c, x) ∧ x.store = false ∧ State.reset.passes c = true ∧ x.refused = false ∧
        State.reset.misaligned .word (x.start State.reset) = false ∧ ¬ (x.sb = true ∧ x.list.getLsbD 15 = true) := by
  intro i h
  simp only [List.mem_cons, List.not_mem_nil, or_false] at h
  rcases h with rfl | rfl | rfl | rfl | rfl | rfl <;>
    exact ⟨_, _, rfl, rfl, rfl, by decide +kernel, by decide +kernel, by decide +kernel⟩

theorem witness_BlockExceptionReturn :
    ∃ c x, blockOf (.ldm .al false true true true 13 0x8001#16) = some (c, x) ∧ x.store = false ∧ handler.passes c = true ∧
      x.refused = false ∧ handler.misaligned .word (x.start handler) = false ∧ x.sb = true ∧ x.list.getLsbD 15 = true ∧
      handler.excMode = some .irq ∧ Mode.ofBits (handler.spsr.get .irq).m = some .sys :=
  ⟨_, _, rfl, rfl, rfl, by decide +kernel, by decide +kernel, rfl, rfl, rfl, rfl⟩

/-- A full list, a base that is the lowest of its list, a user-bank list, PUSH of r14 alone and STMIA with its base lowest. -/
theorem witness_BlockStores :
    State.reset.memCanonical ∧ ∀ i ∈ [Instr.stm .al true false false false 13 0xFFFF#16,
        .stm .al true false false true 13 0xE000#16, .stm .al false true true false 13 0xFFFF#16, .tPush true 0#8,
        .tStmia 0 0x03#8], ∃ c x, blockOf i = some (c, x) ∧ x.store = true ∧ State.reset.passes c = true ∧ x.refused = false ∧
        State.reset.misaligned .word (x.start State.reset) = false := by
  refine ⟨⟨List.Pairwise.nil, by simp [State.reset, State.resetWith]⟩, ?_⟩
  intro i h
  simp only [List.mem_cons, List.not_mem_nil, or_false] at h
  rcases h with rfl | rfl | rfl | rfl | rfl <;>
    exact ⟨_, _, rfl, rfl, rfl, by decide +kernel, by decide +kernel⟩

theorem witness_Swaps :
    State.reset.memCanonical ∧ State.reset.passes .al = true ∧ (14 : Reg) ≠ 15 ∧ (0 : Reg) ≠ 15 ∧
      State.reset.misaligned .word (State.reset.reg 13) = false ∧ State.reset.misaligned .byte (State.reset.reg 0) = false := by
  refine ⟨⟨List.Pairwise.nil, by simp [State.reset, State.resetWith]⟩, ?_⟩
  decide +kernel

theorem witness_NarrowDoesAsWide :
    wideTwin (.tRor 7 0) = some (.movRegReg .al true 0 0 7 .ror 0) ∧
      wideTwin (.tSubSpImm 0x7F#7) = some (.subImm .al false 13 13 15 0x7F#8) := by decide

/-- The three clauses: a compare, a write of a register other than r15, and a write of r15. -/
theorem witness_HighRegisterOperations :
    highOf (.tCmpHiH1 15 7) = some (.cmp, 15, 15) ∧ highOf (.tAddHiH2 7 0) = some (.add, 15, 0) ∧
      highOf (.tMovHiH1 14 7) = some (.mov, 14, 15) ∧ AluOp.add ≠ .cmp ∧ (0 : Reg) ≠ 15 := by decide

theorem witness_NarrowLoads :
    ∀ i ∈ [Instr.tLdrPc 7 0xFF#8, .tLdshReg 0 1 2, .tLdrhImm 0x1F#5 0 7, .tLdrSp 0 0xFF#8],
      ∃ x k, narrowSingleOf i (lab true) = some x ∧ x.acc = .load k ∧ (lab true).misaligned k.width x.addr = false := by
  intro i h
  simp only [List.mem_cons, List.not_mem_nil, or_false] at h
  rcases h with rfl | rfl | rfl | rfl <;> exact ⟨_, _, rfl, rfl, by decide +kernel⟩

theorem witness_NarrowStores :
    State.reset.memCanonical ∧ ∀ i ∈ [Instr.tStrImm 0x1F#5 7 0, .tStrbReg 0 1 2, .tStrhReg 0 1 2, .tStrSp 7 0xFF#8],
      ∃ x w, narrowSingleOf i State.reset = some x ∧ x.acc = .store w ∧ State.reset.misaligned w x.addr = false := by
  refine ⟨⟨List.Pairwise.nil, by simp [State.reset, State.resetWith]⟩, ?_⟩
  intro i h
  simp only [List.mem_cons, List.not_mem_nil, or_false] at h
  rcases h with rfl | rfl | rfl | rfl <;> exact ⟨_, _, rfl, rfl, by decide +kernel⟩

theorem witness_NarrowBranches : (lab true).passes .ne = true ∧ (lab true).passes .eq = false := by decide +kernel

theorem witness_NarrowBranchWithLink : (lab true).cpsr.t = true ∧ (lab true).pcAligned := ⟨rfl, rfl⟩

/-- A state whose parameters leave data processing out, and one whose next word is not recognized. -/
theorem witness_NotRecognizedStops :
    let s := State.reset.setCfg { Config.default with unimplemented := [.dataProcessing] }
    s.checkPending = false ∧ s.halted = false ∧ (decode s.fetch.1).category = some .dataProcessing ∧
      Category.dataProcessing ∈ s.cfg.unimplemented ∧
      (decode (State.reset.withFetchWord 32 0xEE000000).fetch.1).category = none := by decide +kernel

theorem witness_RefusedRegisters :
    State.reset.passes .al = true ∧ ((15 : Reg) = 15 ∨ (0 : Reg) = 15) ∧ (0 : Reg) ≠ 15 ∧ (14 : Reg) ≠ 15 := by
  decide +kernel

/-- Each clause of `RefusedTransfers`. -/
theorem witness_RefusedTransfers :
    let x (i : Instr) : Block := (blockOf i).elim ⟨.wide, false, false, false, false, false, 0, 0⟩ (·.2)
    State.reset.cfg.misalign = .refuse ∧
    (singleOf (.ldrImm .al false true false 15 0 4) State.reset).any
      (fun x => x.rn == 15 && x.wb && State.reset.passes x.c) = true ∧
    (singleOf (.strhImm .al true true false 0 0 1) State.reset).any
      (fun x => !(x.rn == 15 && x.wb) && x.acc == .store .half && (x.addr State.reset).toNat % 2 != 0) = true ∧
    (narrowSingleOf (.tLdrReg 0 13 0) (State.reset.setReg 5 3#32)).any
      (fun x => x.acc == .load .word && x.addr.toNat % 4 != 0) = true ∧
    (x (.ldm .al false true false false 0 0)).list = 0 ∧
    (x (.ldm .al false true false false 15 1)).rn = 15 ∧
    ((x (.ldm .al false true true true 0 0x7FFF)).user = true ∧ (x (.ldm .al false true true true 0 0x7FFF)).w = true) ∧
    ((x (.tStmia 7 0x81)).user = false ∧ (x (.tStmia 7 0x81)).w = true ∧ (x (.tStmia 7 0x81)).list.getLsbD 7 = true ∧
      rankIn (x (.tStmia 7 0x81)).list 7 ≠ 0) ∧
    ((x (.tPush true 0)).refused = false ∧
      ((x (.tPush true 0)).start (State.reset.setReg 13 0x03007F01#32)).toNat % 4 ≠ 0) ∧
    (State.reset.passes .al = true ∧ (13 : Reg) ≠ 15 ∧ (0 : Reg) ≠ 15 ∧
      ((State.reset.setReg 13 0x03007F02#32).reg 13).toNat % 4 ≠ 0) := by decide +kernel

/-- Both forms of the restore, in SYS and in a mode whose SPSR holds no mode. -/
theorem witness_RefusedRestores :
    (∃ op c rn o, Instr.addImm .al true 14 15 0 4 = Instr.dataProc op c true rn 15 o ∧ State.reset.passes c = true ∧
        op ∉ [AluOp.tst, .teq, .cmp, .cmn] ∧ ∀ rs ty rm, o ≠ .regReg rs ty rm) ∧
      (∃ c x, blockOf (.ldm .al false true true true 13 0x8001#16) = some (c, x) ∧ State.reset.passes c = true ∧
        x.store = false ∧ x.refused = false ∧ x.sb = true ∧ x.list.getLsbD 15 = true ∧
        State.reset.misaligned .word (x.start State.reset) = false) ∧
      State.reset.cpsr.m = Mode.sys.bits ∧
      (State.reset.setCpsr (Psr.ofMode .svc)).excMode = some .svc ∧
      Mode.ofBits ((State.reset.setCpsr (Psr.ofMode .svc)).spsr.get .svc).m = none := by
  refine ⟨⟨.add, .al, 14, .imm 0 4, rfl, rfl, by decide, by intro rs ty rm h; cases h⟩,
    ⟨_, _, rfl, rfl, rfl, by decide +kernel, rfl, rfl, by decide +kernel⟩, rfl, rfl, rfl⟩

/-- A saved snapshot is loaded, and loads back as the state it was saved from (R482). -/
theorem witness_Snapshots :
    State.reset.modeLegal ∧ State.reset.pcAligned ∧ (lab true).modeLegal ∧ (lab true).pcAligned ∧
      State.reset.loadState (lab true).saveState = .ok ((lab true).setMem State.reset.mem) := by
  exact ⟨rfl, rfl, rfl, rfl, loadState_eq_ok.2 ⟨by decide +kernel, by decide +kernel⟩⟩

theorem witness_DeviceBytes :
    State.reset.kind 0x04000000#32 = .device ∧ State.reset.kind 0x04000300#32 = .device ∧
      State.reset.kind 0x070003FF#32 = .device := by decide +kernel

end Sys2Proof.Tests
end

section
/-! PROOFS. The values reset leaves (10_state.md R50, 70_reset_and_hazards.md R470, R474). -/

namespace Sys2Proof

/-- Zero in every field is the zero word (R30). -/
@[simp] theorem Psr.toWord_zero : Psr.zero.toWord = 0 := by decide

end Sys2Proof

namespace Sys2Proof.Machine

open Sys2Proof

@[simp] theorem Banked.get_zero (b : Bank) : Banked.zero.get b = 0 := by cases b <;> rfl

/-- After reset every physical register is zero but r13_usr, which holds the parameter `RESET_SP` (R50). -/
theorem phys_applyReset (s : State) (p : PhysReg) :
    s.applyReset.phys p = if p = .sp .usr then s.cfg.resetSp else 0 := by
  cases p with
  | low i => simp [State.applyReset, State.resetWith, State.phys]
  | mid i => simp [State.applyReset, State.resetWith, State.phys]
  | midFiq i => simp [State.applyReset, State.resetWith, State.phys]
  | sp b => cases b <;> rfl
  | lr b => simp [State.applyReset, State.resetWith, State.phys]
  | pc => rfl

@[simp] theorem get_spsr_applyReset (s : State) (e : ExcMode) : s.applyReset.spsr.get e = Psr.zero := by cases e <;> rfl

/-- Settles O14: the registers are a case split over the physical registers, the SPSRs one over the exception modes, and every
other field is the one `State.resetWith` states. -/
theorem resetValues : Obligations.ResetValues := by
  refine ⟨fun s => ⟨phys_applyReset s, rfl, fun e => ?_, rfl, rfl, rfl, rfl, rfl, rfl, rfl⟩, rfl, rfl, ?_⟩
  · rw [get_spsr_applyReset, Psr.toWord_zero]
  · decide

end Sys2Proof.Machine
end

section
/-! PROOFS. The words that are `NotRecognized` (30_encoding.md R103, R111, R116, R119, R123, R129, R131). The decoder is compared
with the six gaps of the model's own `wellFormed` first, and each gap with its spelling in the spec after that. -/

namespace Sys2Proof

/-! ### Fields: a pattern of two parts, of one bit, and under a mask -/

/-- A field holds a pattern exactly when its two parts hold the parts of the pattern. -/
theorem extract_eq_append_iff {n j k : Nat} (w : BitVec n) (lo : Nat) (x : BitVec k) (y : BitVec j) :
    w.extractLsb' lo (k + j) = x ++ y ↔ w.extractLsb' (lo + j) k = x ∧ w.extractLsb' lo j = y := by
  rw [← BitVec.extractLsb'_append_extractLsb'_eq_extractLsb' rfl]
  constructor
  · intro h
    have hhi := congrArg (BitVec.extractLsb' j k) h
    have hlo := congrArg (BitVec.extractLsb' 0 j) h
    rw [BitVec.extractLsb'_append_eq_left, BitVec.extractLsb'_append_eq_left] at hhi
    rw [BitVec.extractLsb'_append_eq_right, BitVec.extractLsb'_append_eq_right] at hlo
    exact ⟨hhi, hlo⟩
  · rintro ⟨rfl, rfl⟩; rfl

theorem extract_one {n : Nat} (w : BitVec n) (lo : Nat) : w.extractLsb' lo 1 = BitVec.ofBool (w.getLsbD lo) := by
  ext i hi; simp [show i = 0 by omega]

/-- The same with a single bit below. -/
theorem extract_eq_append_bit_iff {n k : Nat} (w : BitVec n) (lo : Nat) (x : BitVec k) (b : Bool) :
    w.extractLsb' lo (k + 1) = x ++ BitVec.ofBool b ↔ w.extractLsb' (lo + 1) k = x ∧ w.getLsbD lo = b := by
  rw [extract_eq_append_iff, extract_one]
  cases w.getLsbD lo <;> cases b <;> simp

/-- A mask over the bits from `lo` up holds a halfword to the field above `lo` (R119). -/
theorem mask_high_eq_iff {k lo : Nat} (h : BitVec (k + lo)) (v : BitVec k) :
    h &&& (BitVec.allOnes k ++ 0#lo) = v ++ 0#lo ↔ h.extractLsb' lo k = v := by
  have hmask : h &&& (BitVec.allOnes k ++ 0#lo) = h.extractLsb' lo k ++ 0#lo := by
    ext i hi
    simp only [BitVec.getElem_and, BitVec.getElem_append, BitVec.getElem_extractLsb']
    split
    · simp
    · next hlo => simp [show lo + (i - lo) = i by omega, BitVec.getLsbD_eq_getElem hi]
  rw [hmask]
  refine ⟨fun e => ?_, fun e => by rw [e]⟩
  have hhi := congrArg (BitVec.extractLsb' lo k) e
  rwa [BitVec.extractLsb'_append_eq_left, BitVec.extractLsb'_append_eq_left] at hhi

theorem bitVec2_cases (x : BitVec 2) : x = 0b00#2 ∨ x = 0b01#2 ∨ x = 0b10#2 ∨ x = 0b11#2 := by
  revert x; decide

/-! ### Wide words: the rows of R103 -/

@[simp] theorem category_dataProc (op : AluOp) (c : Cond) (s : Bool) (rn rd : Reg) (o : Operand2) :
    (Instr.dataProc op c s rn rd o).category = some .dataProcessing := by
  cases o <;> cases op <;> rfl

@[simp] theorem category_decodeDataProc (w : Word) : (decodeDataProc w).category = some .dataProcessing :=
  category_dataProc ..

@[simp] theorem category_decodeMultiply_ne_none (w : Word) : (decodeMultiply w).category ≠ none := by
  unfold decodeMultiply
  repeat' split
  all_goals simp [Instr.category]

/-- Row 7 is not recognized in the three cases of R111. -/
theorem category_decodeHalfword_eq_none_iff (w : Word) :
    (decodeHalfword w).category = none ↔
      w.extractLsb' 5 2 = 0b00#2 ∨ (w.getLsbD 20 = false ∧ w.extractLsb' 5 2 ≠ 0b01#2) ∨
        (w.getLsbD 22 = false ∧ w.extractLsb' 8 4 ≠ 0b0000#4) := by
  unfold decodeHalfword
  cases w.getLsbD 22
  case true =>
    rcases bitVec2_cases (w.extractLsb' 5 2) with hsh | hsh | hsh | hsh <;> cases w.getLsbD 20 <;>
      simp [hsh, Instr.category]
  case false =>
    by_cases hoff : w.extractLsb' 8 4 = 0b0000#4
    case neg => simp [hoff, Instr.category]
    rcases bitVec2_cases (w.extractLsb' 5 2) with hsh | hsh | hsh | hsh <;> cases w.getLsbD 20 <;>
      simp [hsh, hoff, Instr.category]

theorem category_decodeSingle_eq_none_iff (w : Word) :
    (decodeSingle w).category = none ↔ w.getLsbD 25 = true ∧ w.getLsbD 4 = true := by
  unfold decodeSingle
  cases w.getLsbD 25 <;> cases w.getLsbD 4 <;> cases w.getLsbD 20 <;> cases w.getLsbD 22 <;> simp [Instr.category]

/-- In the space `w[27:25] = 000` the rows 1 and 3 of R103 do not apply. -/
theorem not_rows_1_3_of_space0 {w : Word} (htop : w.extractLsb' 25 3 = 0b000#3) :
    ¬ (w.extractLsb' 25 3 = 0b111#3 ∧ w.getLsbD 24 = true) ∧ w.extractLsb' 25 3 ≠ 0b101#3 := by
  simp [htop]

/-- `w[7]` and `w[4]` not both set: rows 2 and 8 share these words and recognize each. -/
theorem category_decodeWide_ne_none_of_dataProc {w : Word} (htop : w.extractLsb' 25 3 = 0b000#3)
    (h74 : ¬ (w.getLsbD 7 = true ∧ w.getLsbD 4 = true)) : (decodeWide w).category ≠ none := by
  obtain ⟨hswi, hb⟩ := not_rows_1_3_of_space0 htop
  have hmul : ¬ isMultiplySpace w := fun ⟨_, h7, _, h4⟩ => h74 ⟨h7, h4⟩
  have h26 : w.extractLsb' 26 2 = 0b00#2 := ((extract_eq_append_iff w 25 0b00#2 0b0#1).1 htop).1
  by_cases hbx : isBranchExchange w
  · rw [decodeWide, if_neg hswi, if_pos hbx]; simp [Instr.category]
  · rw [decodeWide, if_neg hswi, if_neg hbx, if_neg hb, if_neg (fun h => hmul h.1), if_neg (fun h => hmul h.1),
      if_neg (fun h => h74 h.2), if_pos h26, category_decodeDataProc]
    simp

/-- `w[7]` and `w[4]` both set: rows 4 to 7, of which only row 7 leaves words without a meaning (R111, R116 c and d). -/
theorem category_decodeWide_of_transfer {w : Word} (htop : w.extractLsb' 25 3 = 0b000#3) (h7 : w.getLsbD 7 = true)
    (h4 : w.getLsbD 4 = true) : (decodeWide w).category = none ↔ inHalfwordGap w = true := by
  obtain ⟨hswi, hb⟩ := not_rows_1_3_of_space0 htop
  have hbx : ¬ isBranchExchange w := fun ⟨_, _, _, _, _, _, h, _⟩ => Bool.noConfusion (h7.symm.trans h)
  rw [decodeWide, if_neg hswi, if_neg hbx, if_neg hb]
  by_cases hsh : w.extractLsb' 5 2 = 0b00#2
  case neg =>
    have hmul : ¬ isMultiplySpace w := fun ⟨_, _, h, _⟩ => hsh h
    rw [if_neg (fun h => hmul h.1), if_neg (fun h => hmul h.1), if_pos ⟨htop, h7, h4⟩, category_decodeHalfword_eq_none_iff]
    simp [inHalfwordGap, htop, h7, h4, hsh]
  case pos =>
    have hmul : isMultiplySpace w := ⟨htop, h7, hsh, h4⟩
    by_cases hrow45 : w.extractLsb' 22 3 = 0b000#3 ∨ w.extractLsb' 23 2 = 0b01#2
    · rw [if_pos ⟨hmul, hrow45⟩]
      refine iff_of_false (category_decodeMultiply_ne_none w) ?_
      rcases hrow45 with h | h <;> simp [inHalfwordGap, hsh, h]
    rw [if_neg (fun h => hrow45 h.2)]
    by_cases hrow6 : w.extractLsb' 23 2 = 0b10#2 ∧ w.extractLsb' 20 2 = 0b00#2 ∧ w.extractLsb' 8 4 = 0b0000#4
    · rw [if_pos ⟨hmul, hrow6⟩]
      split <;> simp [inHalfwordGap, hsh, hrow6, Instr.category]
    · rw [if_neg (fun h => hrow6 h.2), if_pos ⟨htop, h7, h4⟩, category_decodeHalfword_eq_none_iff]
      obtain ⟨h000, h01⟩ := not_or.1 hrow45
      refine iff_of_true (.inl hsh) ?_
      rw [Decidable.not_and_iff_not_or_not, Decidable.not_and_iff_not_or_not] at hrow6
      simpa [inHalfwordGap, htop, h7, h4, hsh, h000, h01, or_assoc] using hrow6

/-- The space field, from the two bits the rows 8 and 9 of R103 test and the bit below them. -/
theorem space_eq_append (w : Word) : w.extractLsb' 25 3 = w.extractLsb' 26 2 ++ BitVec.ofBool (w.getLsbD 25) :=
  (extract_eq_append_bit_iff w 25 _ _).2 ⟨rfl, rfl⟩

/-- Each of the other seven spaces belongs to one row, but for the coprocessor space beside row 1. -/
theorem category_decodeWide_of_space_ne0 {w : Word} (hspace : w.extractLsb' 25 3 ≠ 0b000#3) :
    (decodeWide w).category = none ↔ inCoprocessorSpace w = true ∨ inUndefinedSpace w = true := by
  have hbx : ¬ isBranchExchange w := fun h => hspace h.1
  have hmul : ¬ isMultiplySpace w := fun h => hspace h.1
  have happend := space_eq_append w
  simp only [decodeWide, if_neg hbx, hmul, hspace, false_and, if_false, inUndefinedSpace, inCoprocessorSpace]
  rcases bitVec2_cases (w.extractLsb' 26 2) with h26 | h26 | h26 | h26 <;> cases h25 : w.getLsbD 25 <;>
    rw [h26, h25] at happend
  case inl.false => exact absurd happend hspace
  case inl.true => simp [happend, h26]
  case inr.inl.false | inr.inl.true =>
    simp [happend, h26, h25, category_decodeSingle_eq_none_iff, -BitVec.getLsbD_eq_getElem]
  case inr.inr.inl.false => cases w.getLsbD 20 <;> simp [happend, h26, Instr.category]
  case inr.inr.inl.true => cases w.getLsbD 24 <;> simp [happend, Instr.category]
  case inr.inr.inr.false => simp [happend, h26, Instr.category]
  case inr.inr.inr.true => cases w.getLsbD 24 <;> simp [happend, h26, Instr.category]

/-- The wide words that are not recognized are those of the three gaps of `Instr.wellFormed`. -/
theorem category_decodeWide_eq_none_iff (w : Word) :
    (decodeWide w).category = none ↔
      inCoprocessorSpace w = true ∨ inUndefinedSpace w = true ∨ inHalfwordGap w = true := by
  by_cases hspace : w.extractLsb' 25 3 = 0b000#3
  · have hcop : ¬ inCoprocessorSpace w = true := by simp [inCoprocessorSpace, hspace]
    have hundef : ¬ inUndefinedSpace w = true := by simp [inUndefinedSpace, hspace]
    rw [or_iff_right hcop, or_iff_right hundef]
    by_cases h74 : w.getLsbD 7 = true ∧ w.getLsbD 4 = true
    · exact category_decodeWide_of_transfer hspace h74.1 h74.2
    · have hgap : ¬ inHalfwordGap w = true := by simp_all [inHalfwordGap]
      exact iff_of_false (category_decodeWide_ne_none_of_dataProc hspace h74) hgap
  · have hgap : ¬ inHalfwordGap w = true := by simp [inHalfwordGap, hspace]
    rw [or_iff_left hgap, category_decodeWide_of_space_ne0 hspace]

/-! ### The wide gaps as R116 spells them -/

/-- R116 (a). -/
theorem inCoprocessorSpace_iff (w : Word) :
    inCoprocessorSpace w = true ↔ w.extractLsb' 25 3 = 0b110#3 ∨ w.extractLsb' 24 4 = 0b1110#4 := by
  have h24 : w.extractLsb' 24 4 = 0b1110#4 ↔ w.extractLsb' 25 3 = 0b111#3 ∧ w.getLsbD 24 = false :=
    extract_eq_append_bit_iff w 24 0b111#3 false
  rw [h24]
  simp [inCoprocessorSpace]

/-- R116 (b). -/
theorem inUndefinedSpace_iff (w : Word) :
    inUndefinedSpace w = true ↔ w.extractLsb' 25 3 = 0b011#3 ∧ w.getLsbD 4 = true := by
  simp [inUndefinedSpace]

/-- `w[7:4] = 1001` from the bits the decoder tests. -/
theorem extract_1001_iff (w : Word) :
    w.extractLsb' 4 4 = 0b1001#4 ↔ w.getLsbD 7 = true ∧ w.extractLsb' 5 2 = 0b00#2 ∧ w.getLsbD 4 = true := by
  have hlow : w.extractLsb' 4 4 = 0b1001#4 ↔ w.extractLsb' 5 3 = 0b100#3 ∧ w.getLsbD 4 = true :=
    extract_eq_append_bit_iff w 4 0b100#3 true
  have hhigh : w.extractLsb' 5 3 = 0b100#3 ↔ w.extractLsb' 7 1 = 0b1#1 ∧ w.extractLsb' 5 2 = 0b00#2 :=
    extract_eq_append_iff w 5 0b1#1 0b00#2
  rw [hlow, hhigh, extract_one]
  cases w.getLsbD 7 <;> simp

/-- R116 (c) and (d): the gap of row 7 by `w[6:5]`, 00 or not. -/
theorem inHalfwordGap_iff (w : Word) :
    inHalfwordGap w = true ↔
      (w.extractLsb' 25 3 = 0b000#3 ∧ w.extractLsb' 4 4 = 0b1001#4 ∧
        (w.extractLsb' 22 6 = 0b000001#6 ∨
          (w.extractLsb' 23 5 = 0b00010#5 ∧ (w.extractLsb' 20 2 ≠ 0b00#2 ∨ w.extractLsb' 8 4 ≠ 0b0000#4)) ∨
          w.extractLsb' 23 5 = 0b00011#5)) ∨
      (w.extractLsb' 25 3 = 0b000#3 ∧ w.getLsbD 7 = true ∧ w.getLsbD 4 = true ∧ w.extractLsb' 5 2 ≠ 0b00#2 ∧
        ((w.getLsbD 20 = false ∧ w.extractLsb' 5 2 ≠ 0b01#2) ∨ (w.getLsbD 22 = false ∧ w.extractLsb' 8 4 ≠ 0b0000#4))) := by
  have h22 (b : Bool) : w.extractLsb' 22 3 = 0b00#2 ++ BitVec.ofBool b ↔ w.extractLsb' 23 2 = 0b00#2 ∧ w.getLsbD 22 = b :=
    extract_eq_append_bit_iff w 22 0b00#2 b
  have h001 : w.extractLsb' 22 6 = 0b000001#6 ↔ w.extractLsb' 25 3 = 0b000#3 ∧ w.extractLsb' 22 3 = 0b001#3 :=
    extract_eq_append_iff w 22 0b000#3 0b001#3
  have h10 : w.extractLsb' 23 5 = 0b00010#5 ↔ w.extractLsb' 25 3 = 0b000#3 ∧ w.extractLsb' 23 2 = 0b10#2 :=
    extract_eq_append_iff w 23 0b000#3 0b10#2
  have h11 : w.extractLsb' 23 5 = 0b00011#5 ↔ w.extractLsb' 25 3 = 0b000#3 ∧ w.extractLsb' 23 2 = 0b11#2 :=
    extract_eq_append_iff w 23 0b000#3 0b11#2
  rw [h001, h10, h11, extract_1001_iff, show w.extractLsb' 22 3 = 0b001#3 ↔ _ from h22 true]
  by_cases hspace : w.extractLsb' 25 3 = 0b000#3
  case neg => simp [inHalfwordGap, hspace]
  by_cases hsh : w.extractLsb' 5 2 = 0b00#2
  case neg => simp [inHalfwordGap, hspace, hsh, and_assoc]
  case pos =>
    have h000 : w.extractLsb' 22 3 = 0b000#3 ↔ w.extractLsb' 23 2 = 0b00#2 ∧ w.getLsbD 22 = false := h22 false
    rcases bitVec2_cases (w.extractLsb' 23 2) with h23 | h23 | h23 | h23 <;>
      simp [inHalfwordGap, hspace, hsh, h000, h23]

/-! ### Halfwords: the rows of R119 -/

@[simp] theorem category_decodeFormat12_ne_none (h : Half) : (decodeFormat12 h).category ≠ none := by
  unfold decodeFormat12
  repeat' split
  all_goals simp [Instr.category]

@[simp] theorem category_decodeFormat3 (h : Half) : (decodeFormat3 h).category = some .narrow3 := by
  unfold decodeFormat3; split <;> rfl

@[simp] theorem category_decodeFormat4 (h : Half) : (decodeFormat4 h).category = some .narrow4 := by
  unfold decodeFormat4; split <;> rfl

@[simp] theorem category_decodeFormat78_ne_none (h : Half) : (decodeFormat78 h).category ≠ none := by
  unfold decodeFormat78; split <;> simp [Instr.category]

@[simp] theorem category_decodeFormat9 (h : Half) : (decodeFormat9 h).category = some .narrow9 := by
  unfold decodeFormat9; split <;> rfl

/-- Format 5 leaves the words of R123 without a meaning. -/
theorem category_decodeFormat5_eq_none_iff (h : Half) :
    (decodeFormat5 h).category = none ↔
      if h.extractLsb' 8 2 = 0b11#2 then h.getLsbD 7 = true ∨ h.extractLsb' 0 3 ≠ 0b000#3
      else h.getLsbD 7 = false ∧ h.getLsbD 6 = false := by
  unfold decodeFormat5
  split
  · by_cases hbx : h.getLsbD 7 = false ∧ h.extractLsb' 0 3 = 0b000#3
    · rw [if_pos hbx]
      exact iff_of_false (Option.some_ne_none _) (by simp only [hbx]; decide)
    · rw [if_neg hbx]
      exact iff_of_true rfl (by rw [Decidable.not_and_iff_not_or_not] at hbx; simpa using hbx)
  · cases h.getLsbD 7
    case true =>
      simp only [reduceIte]
      split <;> simp [Instr.category]
    cases h.getLsbD 6
    case true =>
      simp only [reduceIte, Bool.false_eq_true]
      split <;> simp [Instr.category]
    case false => simp [Instr.category]

theorem category_decodeMisc_eq_none_iff (h : Half) :
    (decodeMisc h).category = none ↔ h.extractLsb' 8 4 ≠ 0b0000#4 ∧ h.extractLsb' 9 2 ≠ 0b10#2 := by
  unfold decodeMisc
  repeat' split
  all_goals simp_all [Instr.category]

theorem category_decodeFormat1617_eq_none_iff (h : Half) :
    (decodeFormat1617 h).category = none ↔ h.extractLsb' 8 4 = 0b1110#4 := by
  unfold decodeFormat1617
  repeat' split
  all_goals simp_all [Instr.category]

/-- The spaces `h[15:12]` that hold no unassigned halfword. -/
theorem category_decodeNarrow_ne_none {h : Half} (h4 : h.extractLsb' 12 4 ≠ 0b0100#4) (hB : h.extractLsb' 12 4 ≠ 0b1011#4)
    (hD : h.extractLsb' 12 4 ≠ 0b1101#4) (hE : h.extractLsb' 12 4 ≠ 0b1110#4) : (decodeNarrow h).category ≠ none := by
  unfold decodeNarrow
  split
  case h_5 e => exact absurd (BitVec.eq_of_toNat_eq e) h4
  case h_12 e => exact absurd (BitVec.eq_of_toNat_eq e) hB
  case h_14 e => exact absurd (BitVec.eq_of_toNat_eq e) hD
  case h_15 e => exact absurd (BitVec.eq_of_toNat_eq e) hE
  case h_1 | h_2 => exact category_decodeFormat12_ne_none h
  case h_3 | h_4 => simp
  case h_6 => exact category_decodeFormat78_ne_none h
  case h_7 | h_8 => simp
  case h_9 | h_10 | h_11 | h_13 | h_16 => split <;> exact Option.some_ne_none _

/-- Of the space `h[15:12] = 0100` only format 5 leaves halfwords without a meaning. -/
theorem category_decodeNarrow_of_space4 {h : Half} (hop : h.extractLsb' 12 4 = 0b0100#4) :
    (decodeNarrow h).category = none ↔ inHighRegisterGap h = true := by
  simp only [decodeNarrow, inHighRegisterGap, hop]
  cases h.getLsbD 11
  case true => simp [Instr.category]
  cases h.getLsbD 10
  case false => simp
  simp [category_decodeFormat5_eq_none_iff]

/-- The halfwords that are not recognized are those of the three gaps of `Instr.wellFormed`. -/
theorem category_decodeNarrow_eq_none_iff (h : Half) :
    (decodeNarrow h).category = none ↔ inNarrowGap h = true ∨ inCond14Gap h = true ∨ inHighRegisterGap h = true := by
  by_cases h4 : h.extractLsb' 12 4 = 0b0100#4
  · simp [category_decodeNarrow_of_space4 h4, inNarrowGap, inCond14Gap, h4]
  by_cases hB : h.extractLsb' 12 4 = 0b1011#4
  · have hrow : decodeNarrow h = decodeMisc h := by simp only [decodeNarrow, hB]; rfl
    simp [hrow, category_decodeMisc_eq_none_iff, inNarrowGap, inCond14Gap, inHighRegisterGap, hB]
  by_cases hD : h.extractLsb' 12 4 = 0b1101#4
  · have hrow : decodeNarrow h = decodeFormat1617 h := by simp only [decodeNarrow, hD]; rfl
    simp [hrow, category_decodeFormat1617_eq_none_iff, inNarrowGap, inCond14Gap, inHighRegisterGap, hD]
  by_cases hE : h.extractLsb' 12 4 = 0b1110#4
  · simp only [decodeNarrow, inNarrowGap, inCond14Gap, inHighRegisterGap, hE]
    cases h.getLsbD 11 <;> simp [Instr.category]
  · exact iff_of_false (category_decodeNarrow_ne_none h4 hB hD hE)
      (by simp [inNarrowGap, inCond14Gap, inHighRegisterGap, h4, hB, hD, hE])

/-! ### The narrow gaps as R131 and R123 spell them -/

theorem mask_F000_iff (h : Half) : h &&& 0xF000#16 = 0xB000#16 ↔ h.extractLsb' 12 4 = 0b1011#4 :=
  mask_high_eq_iff (k := 4) (lo := 12) h 0b1011#4

theorem mask_F800_iff (h : Half) :
    h &&& 0xF800#16 = 0xE800#16 ↔ h.extractLsb' 12 4 = 0b1110#4 ∧ h.getLsbD 11 = true := by
  have hbits : h.extractLsb' 11 5 = 0b11101#5 ↔ _ := extract_eq_append_bit_iff h 11 0b1110#4 true
  rw [← hbits]
  exact mask_high_eq_iff (k := 5) (lo := 11) h 0b11101#5

theorem mask_FF00_iff (h : Half) (hi lo : BitVec 4) :
    h &&& 0xFF00#16 = (hi ++ lo) ++ 0#8 ↔ h.extractLsb' 12 4 = hi ∧ h.extractLsb' 8 4 = lo := by
  rw [← extract_eq_append_iff h 8 hi lo]
  exact mask_high_eq_iff (k := 8) (lo := 8) h (hi ++ lo)

theorem mask_FC00_iff (h : Half) :
    h &&& 0xFC00#16 = 0x4400#16 ↔ h.extractLsb' 12 4 = 0b0100#4 ∧ h.getLsbD 11 = false ∧ h.getLsbD 10 = true := by
  have h10 : h.extractLsb' 10 6 = 0b010001#6 ↔ h.extractLsb' 11 5 = 0b01000#5 ∧ h.getLsbD 10 = true :=
    extract_eq_append_bit_iff h 10 0b01000#5 true
  have h11 : h.extractLsb' 11 5 = 0b01000#5 ↔ h.extractLsb' 12 4 = 0b0100#4 ∧ h.getLsbD 11 = false :=
    extract_eq_append_bit_iff h 11 0b0100#4 false
  rw [← and_assoc, ← h11, ← h10]
  exact mask_high_eq_iff (k := 6) (lo := 10) h 0b010001#6

/-- The mask of `BX` is the mask of format 5 with `h[9:8] = 11` (R123). -/
theorem mask_FF00_format5_iff (h : Half) :
    h &&& 0xFF00#16 = 0x4700#16 ↔ h &&& 0xFC00#16 = 0x4400#16 ∧ h.extractLsb' 8 2 = 0b11#2 := by
  have hmask : h &&& 0xFC00#16 = 0x4400#16 ↔ h.extractLsb' 10 6 = 0b010001#6 :=
    mask_high_eq_iff (k := 6) (lo := 10) h 0b010001#6
  have hbits : h.extractLsb' 8 8 = 0b01000111#8 ↔ h.extractLsb' 10 6 = 0b010001#6 ∧ h.extractLsb' 8 2 = 0b11#2 :=
    extract_eq_append_iff h 8 0b010001#6 0b11#2
  rw [hmask, ← hbits]
  exact mask_high_eq_iff (k := 8) (lo := 8) h 0b01000111#8

/-- The values of `h[11:8]` beside formats 13 and 14 (R131). -/
theorem misc_unassigned_iff (h : Half) :
    (h.extractLsb' 8 4).toNat ∈ [1, 2, 3, 6, 7, 8, 9, 10, 11, 14, 15] ↔
      h.extractLsb' 8 4 ≠ 0b0000#4 ∧ h.extractLsb' 9 2 ≠ 0b10#2 := by
  have hsub : h.extractLsb' 9 2 = (h.extractLsb' 8 4).extractLsb' 1 2 := by
    ext i hi
    simp [show 1 + i < 4 by omega, ← Nat.add_assoc]
  rw [hsub]
  generalize h.extractLsb' 8 4 = x
  revert x; decide

/-- R131 but for format 16 and R123. -/
theorem inNarrowGap_iff (h : Half) :
    inNarrowGap h = true ↔ h &&& 0xF800#16 = 0xE800#16 ∨
      (h &&& 0xF000#16 = 0xB000#16 ∧ (h.extractLsb' 8 4).toNat ∈ [1, 2, 3, 6, 7, 8, 9, 10, 11, 14, 15]) := by
  rw [mask_F800_iff, mask_F000_iff, misc_unassigned_iff]
  simp [inNarrowGap, and_assoc]

/-- Format 16 with condition 14 (R129, R131). -/
theorem inCond14Gap_iff (h : Half) : inCond14Gap h = true ↔ h &&& 0xFF00#16 = 0xDE00#16 := by
  rw [show h &&& 0xFF00#16 = 0xDE00#16 ↔ _ from mask_FF00_iff h 0b1101#4 0b1110#4]
  simp [inCond14Gap]

/-- R123. -/
theorem inHighRegisterGap_iff (h : Half) :
    inHighRegisterGap h = true ↔
      (h &&& 0xFC00#16 = 0x4400#16 ∧ h.extractLsb' 8 2 ≠ 0b11#2 ∧ h.extractLsb' 6 2 = 0b00#2) ∨
      (h &&& 0xFF00#16 = 0x4700#16 ∧ (h.getLsbD 7 = true ∨ h.extractLsb' 0 3 ≠ 0b000#3)) := by
  have h6 : h.extractLsb' 6 2 = 0b00#2 ↔ h.extractLsb' 7 1 = 0b0#1 ∧ h.getLsbD 6 = false :=
    extract_eq_append_bit_iff h 6 0b0#1 false
  have h7 : h.extractLsb' 7 1 = 0b0#1 ↔ h.getLsbD 7 = false := by
    rw [extract_one]; cases h.getLsbD 7 <;> decide
  rw [mask_FF00_format5_iff, mask_FC00_iff, h6, h7]
  by_cases hop : h.extractLsb' 8 2 = 0b11#2 <;> simp [inHighRegisterGap, hop, and_assoc]

/-! ### The two forms together -/

/-- Settles O4: in either form the words that are not recognized are the gaps of the model, and those are the collected cases of the
spec. -/
theorem notRecognizedWords : Obligations.NotRecognizedWords := by
  refine ⟨fun w => ?_, fun h => ?_⟩
  · rw [category_decodeWide_eq_none_iff, inCoprocessorSpace_iff, inUndefinedSpace_iff, inHalfwordGap_iff]
  · rw [category_decodeNarrow_eq_none_iff, inNarrowGap_iff, inCond14Gap_iff, inHighRegisterGap_iff]
    exact or_assoc.trans (or_congr Iff.rfl or_left_comm)

end Sys2Proof
end

section
/-! PROOFS. The halted path of the step (40_pipeline_and_condition.md R140, R142) and the condition table (R150). -/

namespace Sys2Proof.Machine

open Sys2Proof

/-! ### The halted step -/

/-- Nothing is serviceable exactly when the master enable is off or no requested type is enabled (R431). -/
theorem checkPending_eq_false_iff (s : State) : s.checkPending = false ↔ s.ime = false ∨ s.ie &&& s.ifr = 0 := by
  rw [State.checkPending, Bool.and_eq_false_iff, bne_eq_false_iff_eq]

/-- Path 2 of the step (R140, R142). -/
theorem step_of_halted {s : State} (hp : s.checkPending = false) (hh : s.halted = true) : step s = .next (s.addCycles 1) := by
  rw [step, hp, if_neg Bool.false_ne_true, hh, if_pos rfl]

/-- Settles O7: nothing is serviceable, so the step takes path 2, and path 2 writes `CYCLES` alone. -/
theorem haltedStepIdles : Obligations.HaltedStepIdles := fun s hh hn =>
  step_of_halted ((checkPending_eq_false_iff s).mpr hn) hh

/-! ### The condition table -/

/-- Settles O9: each row reads its Boolean formula over the flags as a proposition; the four rows from `HI` to `LE` that join two
tests join their readings. -/
theorem conditionTable : Obligations.ConditionTable := by
  intro nv n z c v
  have notSet (b : Bool) : (!b) = true ↔ b = false := iff_of_eq (Bool.not_eq_true' b)
  exact ⟨
    Iff.rfl, notSet z, Iff.rfl, notSet c, Iff.rfl, notSet n, Iff.rfl, notSet v,
    Bool.and_eq_true_iff.trans (and_congr_right' (notSet z)),
    Bool.or_eq_true_iff.trans (or_congr_left (notSet c)),
    beq_iff_eq, bne_iff_ne,
    Bool.and_eq_true_iff.trans (and_congr (notSet z) beq_iff_eq),
    Bool.or_eq_true_iff.trans (or_congr_right bne_iff_ne),
    rfl, rfl⟩

end Sys2Proof.Machine
end

section
/-! PROOFS. The shifter operand (41_shifter_operand.md R161 to R171). Each type is first put in the form of a plain shift by its
number of places, the amounts 0 of the immediate form and 32 to 255 of the register form included. -/

namespace Sys2Proof.Machine

open Sys2Proof

/-! ### Plain shifts as arithmetic, rotations bit by bit -/

theorem toNat_shiftLeft_eq_mul {w : Nat} (v : BitVec w) (k : Nat) : (v <<< k).toNat = v.toNat * 2 ^ k % 2 ^ w := by
  rw [BitVec.toNat_shiftLeft, Nat.shiftLeft_eq]

theorem toNat_ushiftRight_eq_div {w : Nat} (v : BitVec w) (k : Nat) : (v >>> k).toNat = v.toNat / 2 ^ k := by
  rw [BitVec.toNat_ushiftRight, Nat.shiftRight_eq_div_pow]

theorem toInt_sshiftRight_eq_div {w : Nat} (v : BitVec w) (k : Nat) : (v.sshiftRight k).toInt = v.toInt / 2 ^ k := by
  rw [BitVec.toInt_sshiftRight, Int.shiftRight_eq_div_pow, Int.natCast_pow]
  rfl

/-- Bit `j` of a rotation comes from `k` places further up, taken round. -/
theorem getLsbD_rotateRight_eq_mod {w : Nat} (v : BitVec w) (k : Nat) {j : Nat} (hj : j < w) :
    (v.rotateRight k).getLsbD j = v.getLsbD ((j + k) % w) := by
  have hk : k % w < w := Nat.mod_lt k (Nat.zero_lt_of_lt hj)
  rw [BitVec.getLsbD_rotateRight, ← Nat.add_mod_mod]
  by_cases hround : j < w - k % w
  · have hsource : (j + k % w) % w = k % w + j := by rw [Nat.mod_eq_of_lt (by omega), Nat.add_comm]
    rw [hsource, decide_eq_true hround, cond_true]
  · have hsource : (j + k % w) % w = j - (w - k % w) := by
      rw [Nat.mod_eq_sub_mod (by omega), Nat.mod_eq_of_lt (by omega)]
      omega
    rw [hsource, decide_eq_false hround, cond_false, decide_eq_true hj, Bool.true_and]

/-- The carry-out of a rotation is the last bit that went round. -/
theorem msb_rotateRight_eq_mod (v : Word) (k : Nat) : (v.rotateRight k).msb = v.getLsbD ((k + 31) % 32) := by
  rw [BitVec.msb_eq_getLsbD_last, getLsbD_rotateRight_eq_mod v k (by decide), Nat.add_comm]

/-- Filling with the sign is an arithmetic shift by 32 places or more. -/
theorem signFill_eq_sshiftRight (v : Word) {k : Nat} (hk : 32 ≤ k) : signFill v = v.sshiftRight k := by
  unfold signFill
  cases hv : v.msb
  · rw [BitVec.sshiftRight_eq_of_msb_false hv, BitVec.ushiftRight_eq_zero hk]
    rfl
  · rw [BitVec.sshiftRight_eq_of_msb_true hv, BitVec.ushiftRight_eq_zero hk]
    rfl

/-! ### The immediate operand -/

/-- Settles O30: the byte is zero-extended before it is rotated, so a source bit is the byte's own or the 0 above it. -/
theorem immediateOperand : Obligations.ImmediateOperand := by
  refine fun rotate imm8 c => ⟨fun j hj => ?_, ?_⟩
  · have hsource : (j + 2 * rotate.toNat) % 32 < 32 := Nat.mod_lt _ (by decide)
    rw [immOperand, getLsbD_rotateRight_eq_mod _ _ hj, zext, BitVec.getLsbD_setWidth, decide_eq_true hsource, Bool.true_and]
  · rw [immOperand, BitVec.msb_eq_getLsbD_last]

/-! ### Shifts by an immediate amount -/

/-- The number of places an immediate amount stands for in a right shift: the amount 0 means 32 (R164, R165). -/
def rightPlaces (n : BitVec 5) : Nat := if n = 0 then 32 else n.toNat

theorem shiftImm_lsl (n : BitVec 5) (v : Word) (c : Bool) :
    shiftImm .lsl n v c = ⟨v <<< n.toNat, if n = 0 then c else v.getLsbD (32 - n.toNat)⟩ := by
  rw [shiftImm]
  split
  case isTrue h => simp [h]
  case isFalse h => rfl

theorem shiftImm_lsr (n : BitVec 5) (v : Word) (c : Bool) :
    shiftImm .lsr n v c = ⟨v >>> rightPlaces n, v.getLsbD (rightPlaces n - 1)⟩ := by
  rw [shiftImm, rightPlaces]
  split
  case isTrue h => rw [BitVec.ushiftRight_eq_zero (Nat.le_refl 32), BitVec.msb_eq_getLsbD_last]; rfl
  case isFalse h => rfl

theorem shiftImm_asr (n : BitVec 5) (v : Word) (c : Bool) :
    shiftImm .asr n v c = ⟨v.sshiftRight (rightPlaces n), v.getLsbD (rightPlaces n - 1)⟩ := by
  rw [shiftImm, rightPlaces]
  split
  case isTrue h => rw [signFill_eq_sshiftRight v (Nat.le_refl 32), BitVec.msb_eq_getLsbD_last]
  case isFalse h => rfl

/-- The extended rotate: the carry comes in at bit 31 (R166). -/
theorem getLsbD_extendedRotate (v : Word) (c : Bool) {j : Nat} (hj : j < 32) :
    (putBit 32 31 c ||| (v >>> 1)).getLsbD j = if j = 31 then c else v.getLsbD (j + 1) := by
  rw [BitVec.getLsbD_or, bit_putBit, BitVec.getLsbD_ushiftRight, Nat.add_comm 1 j, decide_eq_true hj]
  split
  case isTrue h => simp [h]
  case isFalse h => simp [Ne.symm h]

theorem shiftImm_ror (n : BitVec 5) (v : Word) (c : Bool) :
    (∀ j : Nat, j < 32 → (shiftImm .ror n v c).op2.getLsbD j =
      if n = 0 then (if j = 31 then c else v.getLsbD (j + 1)) else v.getLsbD ((j + n.toNat) % 32)) ∧
    (shiftImm .ror n v c).shc = if n = 0 then v.getLsbD 0 else v.getLsbD ((n.toNat + 31) % 32) := by
  rw [shiftImm]
  split
  case isTrue h => exact ⟨fun j hj => getLsbD_extendedRotate v c hj, rfl⟩
  case isFalse h => exact ⟨fun j hj => getLsbD_rotateRight_eq_mod v n.toNat hj, msb_rotateRight_eq_mod v n.toNat⟩

/-- Settles O31: the right shifts go by `rightPlaces`, and the left shift and the rotation have the amount 0 as a case apart. -/
theorem shiftByImmediate : Obligations.ShiftByImmediate := by
  intro n v c k
  have hk0 : k = 0 ↔ n = 0 := (BitVec.toNat_eq (y := 0)).symm
  have hk32 : k < 32 := n.isLt
  have hplaces : rightPlaces n = if k = 0 then 32 else k := by simp only [hk0]; rfl
  have hlast : v.getLsbD (rightPlaces n - 1) = if k = 0 then v.getLsbD 31 else v.getLsbD (k - 1) := by
    rw [hplaces]; split <;> rfl
  obtain ⟨hrorBits, hrorCarry⟩ := shiftImm_ror n v c
  rw [shiftImm_lsl, shiftImm_lsr, shiftImm_asr]
  refine ⟨toNat_shiftLeft_eq_mul v k, ?_, ?_, hlast, ?_, hlast, ?_, ?_⟩
  · simp only [hk0, k]
  · rw [toNat_ushiftRight_eq_div, hplaces]
    split
    case isTrue => exact Nat.div_eq_of_lt v.isLt
    case isFalse => rfl
  · rw [toInt_sshiftRight_eq_div, hplaces]
  · simpa only [hk0] using hrorBits
  · rw [hrorCarry]
    simp only [← hk0]
    split
    case isTrue => rfl
    case isFalse h =>
      have hlastOut : (k + 31) % 32 = k - 1 := by omega
      rw [← hlastOut]

/-! ### Shifts by a register-held amount -/

theorem shiftReg_lsl {n : BitVec 8} (hn : n ≠ 0) (v : Word) (c : Bool) :
    shiftReg .lsl n v c = ⟨v <<< n.toNat, n.toNat ≤ 32 && v.getLsbD (32 - n.toNat)⟩ := by
  rw [shiftReg, if_neg hn]
  by_cases hlt : n.toNat < 32
  · rw [if_pos hlt, decide_eq_true (Nat.le_of_lt hlt), Bool.true_and]
  rw [if_neg hlt, BitVec.shiftLeft_eq_zero (Nat.le_of_not_lt hlt)]
  by_cases heq : n.toNat = 32
  · rw [if_pos heq, heq]
    rfl
  · rw [if_neg heq, decide_eq_false (by omega), Bool.false_and]
    rfl

theorem shiftReg_lsr {n : BitVec 8} (hn : n ≠ 0) (v : Word) (c : Bool) :
    shiftReg .lsr n v c = ⟨v >>> n.toNat, v.getLsbD (n.toNat - 1)⟩ := by
  rw [shiftReg, if_neg hn]
  by_cases hlt : n.toNat < 32
  · rw [if_pos hlt]
  rw [if_neg hlt, BitVec.ushiftRight_eq_zero (Nat.le_of_not_lt hlt)]
  by_cases heq : n.toNat = 32
  · rw [if_pos heq, heq, BitVec.msb_eq_getLsbD_last]
    rfl
  · rw [if_neg heq, BitVec.getLsbD_of_ge v _ (by omega)]
    rfl

theorem shiftReg_asr {n : BitVec 8} (hn : n ≠ 0) (v : Word) (c : Bool) :
    shiftReg .asr n v c = ⟨v.sshiftRight n.toNat, v.getLsbD (min n.toNat 32 - 1)⟩ := by
  rw [shiftReg, if_neg hn]
  by_cases hlt : n.toNat < 32
  · rw [if_pos hlt, Nat.min_eq_left (Nat.le_of_lt hlt)]
  · have hge : 32 ≤ n.toNat := Nat.le_of_not_lt hlt
    rw [if_neg hlt, Nat.min_eq_right hge, signFill_eq_sshiftRight v hge, BitVec.msb_eq_getLsbD_last]

theorem shiftReg_ror {n : BitVec 8} (hn : n ≠ 0) (v : Word) (c : Bool) :
    shiftReg .ror n v c = ⟨v.rotateRight n.toNat, v.getLsbD ((n.toNat + 31) % 32)⟩ := by
  rw [← msb_rotateRight_eq_mod, ← BitVec.rotateRight_mod_eq_rotateRight, shiftReg, if_neg hn]
  by_cases hround : n.toNat % 32 = 0
  · have hwhole : v.rotateRight (n.toNat % 32) = v := by simp [hround, BitVec.rotateRight_def]
    rw [if_pos hround, hwhole]
  · rw [if_neg hround]

/-- Settles O32: with an amount that is not 0 each type is one plain shift or rotation by all of it. -/
theorem shiftByRegister : Obligations.ShiftByRegister := by
  intro ty n v c k x
  refine ⟨fun hk => ?_, fun hk => ?_⟩
  · obtain rfl : n = 0 := BitVec.eq_of_toNat_eq hk
    exact ⟨rfl, rfl⟩
  · have hn : n ≠ 0 := fun h => hk (congrArg BitVec.toNat h)
    refine ⟨?_, ?_, ?_, ?_⟩ <;> rintro rfl
    · simp only [x, shiftReg_lsl hn]
      exact ⟨toNat_shiftLeft_eq_mul v k, rfl⟩
    · simp only [x, shiftReg_lsr hn]
      exact ⟨toNat_ushiftRight_eq_div v k, rfl⟩
    · simp only [x, shiftReg_asr hn]
      exact ⟨toInt_sshiftRight_eq_div v k, rfl⟩
    · simp only [x, shiftReg_ror hn]
      exact ⟨fun j hj => getLsbD_rotateRight_eq_mod v k hj, rfl⟩

end Sys2Proof.Machine
end

section
/-! PROOFS. The data-processing operations (42_data_processing.md): their results and flags (R181, R182, R187 to R203), and what
they do when they write r15 (R185). -/

namespace Sys2Proof.Machine

open Sys2Proof

/-! ### The exact sum -/

theorem addWithCarry_r (a b : Word) (c : Bool) :
    (addWithCarry a b c).r = BitVec.ofInt 32 (a.toNat + b.toNat + c.toNat) :=
  (BitVec.ofInt_natCast 32 (a.toNat + b.toNat + c.toNat)).symm

theorem addWithCarry_cout (a b : Word) (c : Bool) :
    (addWithCarry a b c).cout = decide ((2 : Int) ^ 32 ≤ a.toNat + b.toNat + c.toNat) :=
  decide_eq_decide.2 (by omega)

/-- The sign test of R17 finds exactly the signed sums that 32 bits do not hold. -/
theorem addWithCarry_vout (a b : Word) (c : Bool) :
    (addWithCarry a b c).vout =
      decide (a.toInt + b.toInt + c.toNat < -2 ^ 31 ∨ (2 : Int) ^ 31 ≤ a.toInt + b.toInt + c.toNat) := by
  have hc : c.toNat ≤ 1 := Bool.toNat_le c
  have ha : a.toNat < 2 ^ 32 := a.isLt
  have hb : b.toNat < 2 ^ 32 := b.isLt
  rw [Bool.eq_iff_iff]
  simp only [addWithCarry, BitVec.msb_eq_decide, BitVec.toNat_ofNat, Bool.and_eq_true, beq_iff_eq, bne_iff_ne, ne_eq,
    decide_eq_decide, decide_eq_true_eq, BitVec.toInt_eq_toNat_cond]
  split <;> split <;> omega

/-! ### The arithmetic operations -/

/-- The result and the flags of R181 for the exact result `x` of the unsigned readings, `y` of the signed ones, and the carry. -/
def arithOutcome (x y : Int) (carry : Bool) : Word × Flags :=
  (BitVec.ofInt 32 x,
    { n := (BitVec.ofInt 32 x).getLsbD 31
      z := decide (BitVec.ofInt 32 x = 0)
      c := carry
      v := decide (y < -2 ^ 31 ∨ 2 ^ 31 ≤ y) })

/-- The result and the flags of an operation whose sum is `x`. -/
def sumOutcome (x : Sum) : Word × Flags := (x.r, arithFlags x)

/-- An adding operation: C is the carry out of the exact sum. -/
theorem sumOutcome_add {a b : Word} {c : Bool} {x y : Int} (hx : a.toNat + b.toNat + c.toNat = x)
    (hy : a.toInt + b.toInt + c.toNat = y) :
    sumOutcome (addWithCarry a b c) = arithOutcome x y (decide (2 ^ 32 ≤ x)) := by
  subst hx hy
  simp only [sumOutcome, arithOutcome, arithFlags, addWithCarry_r, addWithCarry_cout, addWithCarry_vout,
    BitVec.msb_eq_getLsbD_last, Bool.beq_eq_decide_eq]

/-- The complement as a signed number. -/
theorem toInt_not_eq_sub (b : Word) : (~~~b).toInt = -1 - b.toInt := by
  have hb : b.toNat < 2 ^ 32 := b.isLt
  have hnat : (~~~b).toNat = 2 ^ 32 - 1 - b.toNat := BitVec.toNat_not
  rw [BitVec.toInt_eq_toNat_cond, BitVec.toInt_eq_toNat_cond, hnat]
  split <;> split <;> omega

/-- A subtracting operation adds the complement, which is `2^32 - 1 - b` unsigned and `-1 - b` signed: the exact sum is `2^32`
more than the exact difference, so it carries exactly when there is no borrow. -/
theorem sumOutcome_sub {a b : Word} {c : Bool} {x y : Int} (hx : a.toNat - b.toNat - (1 - c.toNat) = x)
    (hy : a.toInt - b.toInt - (1 - c.toNat) = y) :
    sumOutcome (addWithCarry a (~~~b) c) = arithOutcome x y (decide (0 ≤ x)) := by
  have hb : b.toNat < 2 ^ 32 := b.isLt
  have hnat : (~~~b).toNat = 2 ^ 32 - 1 - b.toNat := BitVec.toNat_not
  have hint : (~~~b).toInt = -1 - b.toInt := toInt_not_eq_sub b
  have hsum : sumOutcome (addWithCarry a (~~~b) c) = arithOutcome (x + 2 ^ 32) y (decide (2 ^ 32 ≤ x + 2 ^ 32)) :=
    sumOutcome_add (by omega) (by omega)
  have hmod : BitVec.ofInt 32 (x + 2 ^ 32) = BitVec.ofInt 32 x := by
    rw [BitVec.ofInt_add]
    exact BitVec.add_zero _
  have hcarry : decide (2 ^ 32 ≤ x + 2 ^ 32) = decide (0 ≤ x) := decide_eq_decide.2 (by omega)
  rw [hsum, arithOutcome, hmod, hcarry, arithOutcome]

/-- Settles O33: each operation is one sum, of the second operand or of the complement of the one it subtracts. -/
theorem arithmeticResults : Obligations.ArithmeticResults := by
  intro op a b shc old x y hx hy
  have hc : (if old.c then 1 else 0 : Int) = old.c.toNat := by cases old.c <;> rfl
  rw [hc] at hx hy
  have h1 : true.toNat = 1 := rfl
  have h0 : false.toNat = 0 := rfl
  cases op
  case add | cmn => cases hx; cases hy; exact sumOutcome_add (by omega) (by omega)
  case adc => cases hx; cases hy; exact sumOutcome_add rfl rfl
  case sub | cmp | rsb => cases hx; cases hy; exact sumOutcome_sub (by omega) (by omega)
  case sbc | rsc => cases hx; cases hy; exact sumOutcome_sub rfl rfl
  case and | eor | tst | teq | orr | mov | bic | mvn => cases hx

/-! ### The logical operations -/

theorem logicFlags_eq (old : Flags) (r : Word) (shc : Bool) :
    logicFlags old r shc = { n := r.getLsbD 31, z := decide (r = 0), c := shc, v := old.v } := by
  rw [logicFlags, BitVec.msb_eq_getLsbD_last, Bool.beq_eq_decide_eq]

/-- A logical operation forms its result bit by bit, and its flags from the result and the shifter's carry-out (R182). -/
theorem aluResult_logical {op : AluOp} (hop : (logicBit op false false).isSome = true) (a b : Word) (shc : Bool)
    (old : Flags) :
    (∀ j : Nat, j < 32 → some ((aluResult op a b shc old).1.getLsbD j) = logicBit op (a.getLsbD j) (b.getLsbD j)) ∧
      (aluResult op a b shc old).2 = logicFlags old (aluResult op a b shc old).1 shc := by
  cases op
  case and | tst => exact ⟨fun j _ => congrArg some BitVec.getLsbD_and, rfl⟩
  case eor | teq => exact ⟨fun j _ => congrArg some BitVec.getLsbD_xor, rfl⟩
  case orr => exact ⟨fun j _ => congrArg some BitVec.getLsbD_or, rfl⟩
  case mov => exact ⟨fun j _ => rfl, rfl⟩
  case bic | mvn => exact ⟨fun j hj => by simp [aluResult, logicBit, hj], rfl⟩
  case sub | rsb | add | adc | sbc | rsc | cmp | cmn => cases hop

/-- Settles O34: the bits and the flags of a logical operation, with the flags read off the result. -/
theorem logicalResults : Obligations.LogicalResults := by
  intro op a b shc old hop
  obtain ⟨hbits, hflags⟩ := aluResult_logical hop a b shc old
  exact ⟨hbits, hflags.trans (logicFlags_eq old _ shc)⟩

/-! ### Writes of r15 -/

/-- The forty-eight data-processing instructions are one operation (R180). -/
theorem exec_dataProc (op : AluOp) (c : Cond) (sb : Bool) (rn rd : Reg) (o : Operand2) (s : State) :
    exec (Instr.dataProc op c sb rn rd o) s = dataProc op c sb rn rd o s := by
  cases o <;> cases op <;> rfl

theorem compares_eq_true_iff {op : AluOp} : compares op = true ↔ op ∈ [AluOp.tst, .teq, .cmp, .cmn] := by
  cases op <;> decide

/-- The two ends of a data-processing instruction that writes r15 (R185). -/
theorem dataProc_r15 {op : AluOp} {c : Cond} {sb : Bool} {rn : Reg} {o : Operand2} {s : State} (hc : s.passes c = true)
    (hop : op ∉ [AluOp.tst, .teq, .cmp, .cmn]) (ho : ∀ rs ty rm, o ≠ .regReg rs ty rm) :
    let r := (aluResult op (s.rdOp .wide rn) (s.shifter o).op2 (s.shifter o).shc s.flags).1
    let cost := s.cfg.cost.dataProc + 2
    dataProc op c sb rn 15 o s = if sb then s.exceptionReturn s r cost else s.finishAt r cost := by
  have hcmp : ¬ compares op = true := fun h => hop (compares_eq_true_iff.1 h)
  have hfree : operandExtraCost o s.cfg.cost = 0 ∧ operandRefused o rn 15 = false := by
    cases o with
    | imm rotate imm8 => exact ⟨rfl, rfl⟩
    | regImm amount ty rm => exact ⟨rfl, rfl⟩
    | regReg rs ty rm => exact absurd rfl (ho rs ty rm)
  obtain ⟨hextra, hallowed⟩ := hfree
  rw [dataProc, gate_of_passes _ hc, hallowed, refuseIf_false, if_neg hcmp, if_pos rfl, hextra, Nat.add_zero]

/-- A mode number decides whether there is an SPSR (R33). -/
theorem excMode_of_bits {s : State} {md : Mode} (h : s.cpsr.m = md.bits) : s.excMode = md.exc := by
  rw [State.excMode, h, Mode.ofBits_bits, Option.bind_some]

theorem exceptionReturn_of_no_spsr {s : State} (h : s.excMode = none) (u : State) (v : Word) (cost : Nat) :
    s.exceptionReturn u v cost = .fault .spsrInUsrSys := by
  rw [State.exceptionReturn, State.restoreFault, h]

/-- What a write of CPSR followed by a redirection leaves: the registers but r15, and the rest of the state. -/
theorem setCpsr_branchTo_frame (s : State) (p : Psr) (v : Word) (cost : Nat) :
    let t := ((s.setCpsr p).branchTo v).addCycles cost
    t.cpsr = p ∧ RegsBut [] s t ∧ Redirected v cost s t ∧ RestSame s t := by
  refine ⟨rfl, fun q hq _ => ?_, ⟨rfl, rfl⟩, rfl, rfl, rfl, rfl, rfl, rfl, rfl, rfl, rfl⟩
  rw [phys_addCycles, phys_branchTo, if_neg hq, phys_setCpsr]

/-- Settles O36: a branch is the return that restores the CPSR in force. -/
theorem dataProcessingIntoPc : Obligations.DataProcessingIntoPc := by
  intro op c rn o s hc hop ho y cost
  have hend (sb : Bool) : exec (Instr.dataProc op c sb rn 15 o) s =
      if sb then s.exceptionReturn s y.1 cost else s.finishAt y.1 cost :=
    (exec_dataProc op c sb rn 15 o s).trans (dataProc_r15 hc hop ho)
  refine ⟨?_, fun e md he hm => ?_, fun hm => ?_⟩
  · exact ⟨_, hend false, setCpsr_branchTo_frame s s.cpsr y.1 cost⟩
  · have hlegal : (Mode.ofBits (s.spsr.get e).m).isSome = true := by rw [hm, Option.isSome_some]
    exact ⟨_, (hend true).trans ((exceptionReturn_eq_next rfl).2 ⟨e, he, hlegal, rfl⟩),
      setCpsr_branchTo_frame s (s.spsr.get e) y.1 cost⟩
  · have hnone : s.excMode = none := hm.elim excMode_of_bits excMode_of_bits
    exact (hend true).trans (exceptionReturn_of_no_spsr hnone s y.1 cost)

end Sys2Proof.Machine
end

section
/-! PROOFS. The multiplies and the long multiplies (43_multiply.md R212 to R221). Both write their registers and then end alike, so
the flags, the cost and the frame are proved once, for the state after the register writes. -/

namespace Sys2Proof.Machine

open Sys2Proof

/-! ### The results -/

/-- MUL and MLA keep the low 32 bits (R216, R217). -/
theorem toNat_mul_add_eq_mod (x y a : Word) : (x * y + a).toNat = (x.toNat * y.toNat + a.toNat) % 2 ^ 32 := by
  rw [BitVec.toNat_add, BitVec.toNat_mul, Nat.mod_add_mod]

/-- The 64-bit product of the reading that U asks for (R218, R220). -/
def longProduct (sgn : Bool) (x y : Word) : BitVec 64 := if sgn then signedProduct x y else unsignedProduct x y

/-- The product and the sum wrap only once, modulo 2^64 (R218 to R221). -/
theorem longProduct_add_eq_ofInt (sgn : Bool) (x y : Word) (a : BitVec 64) :
    longProduct sgn x y + a =
      BitVec.ofInt 64 ((if sgn then x.toInt * y.toInt else (x.toNat : Int) * (y.toNat : Int)) + (a.toNat : Int)) := by
  have hsum : BitVec.ofInt 64 (a.toNat : Int) = a := by rw [BitVec.ofInt_natCast, BitVec.ofNat_toNat, BitVec.setWidth_eq]
  rw [BitVec.ofInt_add, hsum]
  cases sgn
  · exact congrArg (· + a) (BitVec.ofInt_natCast 64 (x.toNat * y.toNat)).symm
  · rfl

/-- The two halves that a long multiply writes make up its result. -/
theorem high_append_low (r : BitVec 64) : (r.extractLsb' 32 32 ++ r.extractLsb' 0 32 : BitVec 64) = r :=
  (BitVec.extractLsb'_append_extractLsb'_eq_extractLsb' rfl).trans BitVec.extractLsb'_eq_self

/-! ### The end of a multiply -/

/-- The state a multiply ends in (R147, R148, R212, R213): `u`, the state after its register writes, with the flags set if S asks,
the advance and the cost. -/
def multiplyEnd (u : State) (sb n z : Bool) (cost : Nat) : State :=
  ((u.setMulFlags sb n z).setRawPc (u.pc + 4)).addCycles cost

theorem setMulFlags_finish (u : State) (sb n z : Bool) (cost : Nat) :
    (u.setMulFlags sb n z).finish .wide cost = .next (multiplyEnd u sb n z cost) := by
  rw [finish_eq_next, setMulFlags_pc]
  rfl

theorem phys_multiplyEnd (u : State) (sb n z : Bool) (cost : Nat) {p : PhysReg} (hp : p ≠ .pc) :
    (multiplyEnd u sb n z cost).phys p = u.phys p := by
  rw [multiplyEnd, phys_addCycles, phys_setRawPc, if_neg hp, phys_setMulFlags]

theorem phys_setReg_same (s : State) {i : Reg} (v : Word) (hi : i ≠ 15) : (s.setReg i v).phys (physOf s.cpsr.m i) = v :=
  phys_setPhys_same s v (physOf_ne_pc hi)

theorem phys_setReg_other (s : State) {i : Reg} {p : PhysReg} (v : Word) (hp : p ≠ physOf s.cpsr.m i) :
    (s.setReg i v).phys p = s.phys p :=
  phys_setPhys_other s v hp

/-- `u` is `s` but for the general registers of a list, and r15 is what it was. -/
def RegistersWritten (ds : List PhysReg) (s u : State) : Prop :=
  RegsBut ds s u ∧ u.pc = s.pc ∧ u.cpsr = s.cpsr ∧ u.cycles = s.cycles ∧ RestSame s u

theorem registersWritten_setReg (s : State) {i : Reg} (v : Word) (hi : i ≠ 15) :
    RegistersWritten [physOf s.cpsr.m i] s (s.setReg i v) := by
  refine ⟨fun p _ hp => ?_, setPhys_pc_of_ne s v (physOf_ne_pc hi), setReg_cpsr .., setReg_cycles .., ?_⟩
  · exact phys_setReg_other s v fun h => hp (List.mem_singleton.2 h)
  · simp [RestSame]

/-- A later write puts its registers in front. -/
theorem RegistersWritten.trans {ds es : List PhysReg} {s u t : State} (hsu : RegistersWritten ds s u)
    (hut : RegistersWritten es u t) : RegistersWritten (es ++ ds) s t := by
  obtain ⟨hregs, hpc, hcpsr, hcycles, hrest⟩ := hsu
  obtain ⟨hregs', hpc', hcpsr', hcycles', hrest'⟩ := hut
  refine ⟨fun p hp hds => ?_, hpc'.trans hpc, hcpsr'.trans hcpsr, hcycles'.trans hcycles, ?_⟩
  · obtain ⟨hes, hds⟩ := not_or.1 fun h => hds (List.mem_append.2 h)
    exact (hregs' p hp hes).trans (hregs p hp hds)
  · simp_all [RestSame]

/-- What a multiply does beside its result (R212, R213, R147, R148): the flags, the draw, the advance, the cost and the frame. -/
theorem multiplyEnd_frame {ds : List PhysReg} {s u : State} (h : RegistersWritten ds s u) (sb n z : Bool) (cost : Nat) :
    let t := multiplyEnd u sb n z cost
    RegsBut ds s t ∧ (sb = false → t.cpsr = s.cpsr ∧ t.draws = s.draws) ∧
      (sb = true → t.cpsr = { s.cpsr with n := n, z := z, c := t.cpsr.c, v := t.cpsr.v }) ∧
      Sequential .wide cost s t ∧ RestSameButDraws s t := by
  obtain ⟨hregs, hpc, hcpsr, hcycles, hspsr, hie, hifr, hime, hhalted, hmem, hcfg, hdraws, hbus⟩ := h
  refine ⟨fun p hp hds => (phys_multiplyEnd u sb n z cost hp).trans (hregs p hp hds), ?_, ?_, ⟨?_, ?_⟩, ?_⟩
  · rintro rfl; exact ⟨hcpsr, hdraws⟩
  · rintro rfl; rw [← hcpsr]; rfl
  · rw [← hpc]; rfl
  · rw [← hcycles, multiplyEnd, addCycles_cycles, setRawPc_cycles, setMulFlags_cycles]
  · simp [RestSameButDraws, multiplyEnd, hspsr, hie, hifr, hime, hhalted, hmem, hcfg, hbus]

/-! ### MUL and MLA -/

/-- MUL is MLA with nothing added and its `rn` ignored (R214, R216, R217). -/
theorem exec_mulOrMla (acc : Bool) (c : Cond) (sb : Bool) (rd rn rs rm : Reg) (s : State) :
    exec (if acc then .mla c sb rd rn rs rm else .mul c sb rd rn rs rm) s =
      multiply (rd == 15 || rm == 15 || rs == 15 || (acc && rn == 15)) c sb rd
        (s.reg rm * s.reg rs + if acc then s.reg rn else 0) (if acc then 4 else 3) s := by
  cases acc with
  | false =>
    have hsum : s.reg rm * s.reg rs + 0 = s.reg rm * s.reg rs := BitVec.add_zero _
    rw [Bool.false_and, Bool.or_false, if_neg Bool.false_ne_true, if_neg Bool.false_ne_true, if_neg Bool.false_ne_true, hsum]
    rfl
  | true => rfl

theorem multiply_eq_multiplyEnd {refused : Bool} {c : Cond} {s : State} (hc : s.passes c = true) (hrefused : refused = false)
    (sb : Bool) (rd : Reg) (r : Word) (cost : Nat) :
    multiply refused c sb rd r cost s = .next (multiplyEnd (s.setReg rd r) sb r.msb (r == 0) cost) := by
  rw [← setMulFlags_finish, multiply, gate_of_passes _ hc, hrefused, refuseIf_false]

/-- Settles O37: the end of a multiply after the one write of `rd`. -/
theorem multiplies : Obligations.Multiplies := by
  intro acc c sb rd rn rs rm s hc hrd hrm hrs hrn
  have hallowed : (rd == 15 || rm == 15 || rs == 15 || (acc && rn == 15)) = false := by
    cases acc <;> simp [hrd, hrm, hrs, hrn]
  rw [exec_mulOrMla]
  refine ⟨_, multiply_eq_multiplyEnd hc hallowed sb rd _ _, ?_⟩
  generalize hr : s.reg rm * s.reg rs + (if acc then s.reg rn else 0) = r
  obtain ⟨hregs, hkeep, hset, hseq, hrest⟩ :=
    multiplyEnd_frame (registersWritten_setReg s r hrd) sb r.msb (r == 0) (if acc then 4 else 3)
  rw [phys_multiplyEnd _ _ _ _ _ (physOf_ne_pc hrd), phys_setReg_same s r hrd]
  refine ⟨?_, hregs, hkeep, fun hsb => ?_, hseq, hrest⟩
  · rw [← hr, toNat_mul_add_eq_mod]
    cases acc <;> rfl
  · rw [← BitVec.msb_eq_getLsbD_last, ← Bool.beq_eq_decide_eq]
    exact hset hsb

/-! ### The long multiplies -/

/-- The register writes of a long multiply. -/
def setRegPair (s : State) (rdHi rdLo : Reg) (r : BitVec 64) : State :=
  (s.setReg rdLo (r.extractLsb' 0 32)).setReg rdHi (r.extractLsb' 32 32)

theorem registersWritten_setRegPair (s : State) {rdHi rdLo : Reg} (r : BitVec 64) (hhi : rdHi ≠ 15) (hlo : rdLo ≠ 15) :
    RegistersWritten [physOf s.cpsr.m rdHi, physOf s.cpsr.m rdLo] s (setRegPair s rdHi rdLo r) := by
  have hlow := registersWritten_setReg s (r.extractLsb' 0 32) hlo
  have hhigh := registersWritten_setReg (s.setReg rdLo (r.extractLsb' 0 32)) (r.extractLsb' 32 32) hhi
  rw [setReg_cpsr] at hhigh
  exact hlow.trans hhigh

/-- The pair reads back the 64 bits, since the two numbers name two registers. -/
theorem phys_setRegPair (s : State) {rdHi rdLo : Reg} (r : BitVec 64) (hhi : rdHi ≠ 15) (hlo : rdLo ≠ 15)
    (hne : rdHi ≠ rdLo) :
    ((setRegPair s rdHi rdLo r).phys (physOf s.cpsr.m rdHi) ++ (setRegPair s rdHi rdLo r).phys (physOf s.cpsr.m rdLo) :
      BitVec 64) = r := by
  have hmode : (s.setReg rdLo (r.extractLsb' 0 32)).cpsr.m = s.cpsr.m := by rw [setReg_cpsr]
  have hother : physOf s.cpsr.m rdLo ≠ physOf s.cpsr.m rdHi := fun h => hne (physOf_inj.1 h).symm
  have hlow : (setRegPair s rdHi rdLo r).phys (physOf s.cpsr.m rdLo) = r.extractLsb' 0 32 := by
    rw [setRegPair, phys_setReg_other _ _ (hmode ▸ hother), phys_setReg_same s _ hlo]
  have hhigh : (setRegPair s rdHi rdLo r).phys (physOf s.cpsr.m rdHi) = r.extractLsb' 32 32 := by
    rw [setRegPair, ← hmode, phys_setReg_same _ _ hhi]
  rw [hlow, hhigh, high_append_low]

/-- The four long multiplies are one operation (R218 to R221). -/
theorem exec_longMultiplyOf (sgn acc : Bool) (c : Cond) (sb : Bool) (rdHi rdLo rs rm : Reg) (s : State) :
    exec (longMultiplyOf sgn acc c sb rdHi rdLo rs rm) s =
      multiplyLong c sb rdHi rdLo rs rm
        (longProduct sgn (s.reg rm) (s.reg rs) + if acc then s.reg rdHi ++ s.reg rdLo else 0)
        (longMultiplyCost sgn acc s.cfg.cost) s := by
  cases acc with
  | false =>
    have hsum : longProduct sgn (s.reg rm) (s.reg rs) + 0 = longProduct sgn (s.reg rm) (s.reg rs) := BitVec.add_zero _
    rw [if_neg Bool.false_ne_true, hsum]
    cases sgn <;> rfl
  | true => cases sgn <;> rfl

theorem multiplyLong_eq_multiplyEnd {c : Cond} (sb : Bool) {rdHi rdLo rs rm : Reg} (r : BitVec 64) (cost : Nat) {s : State}
    (hc : s.passes c = true) (hhi : rdHi ≠ 15) (hlo : rdLo ≠ 15) (hrm : rm ≠ 15) (hrs : rs ≠ 15) (hne : rdHi ≠ rdLo) :
    multiplyLong c sb rdHi rdLo rs rm r cost s =
      .next (multiplyEnd (setRegPair s rdHi rdLo r) sb r.msb (r == 0) cost) := by
  have hallowed : (rdHi == 15 || rdLo == 15 || rm == 15 || rs == 15) = false := by simp [hhi, hlo, hrm, hrs]
  rw [← setMulFlags_finish, multiplyLong, gate_of_passes _ hc, hallowed, refuseIf_false, beq_false_of_ne hne, refuseIf_false]
  rfl

/-- Settles O38: the end of a multiply after the writes of `rdLo` and `rdHi`. -/
theorem longMultiplies : Obligations.LongMultiplies := by
  intro sgn acc c sb rdHi rdLo rs rm s hc hhi hlo hrm hrs hne
  rw [exec_longMultiplyOf]
  refine ⟨_, multiplyLong_eq_multiplyEnd sb _ _ hc hhi hlo hrm hrs hne, ?_⟩
  generalize hr : longProduct sgn (s.reg rm) (s.reg rs) + (if acc then s.reg rdHi ++ s.reg rdLo else 0) = r
  obtain ⟨hregs, hkeep, hset, hseq, hrest⟩ :=
    multiplyEnd_frame (registersWritten_setRegPair s r hhi hlo) sb r.msb (r == 0) (longMultiplyCost sgn acc s.cfg.cost)
  rw [phys_multiplyEnd _ _ _ _ _ (physOf_ne_pc hhi), phys_multiplyEnd _ _ _ _ _ (physOf_ne_pc hlo),
    phys_setRegPair s r hhi hlo hne]
  refine ⟨⟨?_, fun hsb => ?_⟩, hkeep, hregs, hseq, hrest⟩
  · rw [← hr, longProduct_add_eq_ofInt]
  · rw [← BitVec.msb_eq_getLsbD_last, ← Bool.beq_eq_decide_eq]
    exact hset hsb

end Sys2Proof.Machine
end

section
/-! PROOFS. The wide branches B and BL (44_branch.md R230 to R235, R237). A redirected step that comes after register writes keeps
their frame; B writes no register before it and BL the current r14. -/

namespace Sys2Proof.Machine

open Sys2Proof

/-! ### The target -/

/-- A signed offset shifted left by `n` counts units of `2 ^ n` bytes, forwards or back (R13, R231). -/
theorem sext_shiftLeft_eq_ofInt {k : Nat} (x : BitVec k) (n : Nat) : sext x <<< n = BitVec.ofInt 32 (2 ^ n * x.toInt) := by
  have hsext : sext x = BitVec.ofInt 32 x.toInt := rfl
  have hpow : BitVec.twoPow 32 n = BitVec.ofInt 32 (2 ^ n) := calc
    BitVec.twoPow 32 n = BitVec.ofNat 32 (2 ^ n) := BitVec.eq_of_toNat_eq (BitVec.toNat_twoPow 32 n)
    _ = BitVec.ofInt 32 (2 ^ n) := (BitVec.ofInt_natCast 32 (2 ^ n)).symm.trans (congrArg (BitVec.ofInt 32) (Int.natCast_pow 2 n))
  rw [BitVec.shiftLeft_eq_mul_twoPow, hsext, hpow, ← BitVec.ofInt_mul, Int.mul_comm]

theorem branchTarget_eq (s : State) (offset : BitVec 24) :
    s.branchTarget offset = s.pc + 8 + BitVec.ofInt 32 (4 * offset.toInt) :=
  congrArg (s.pc + 8 + ·) (sext_shiftLeft_eq_ofInt offset 2)

/-! ### The redirection after register writes -/

theorem registersWritten_refl (s : State) : RegistersWritten [] s s := by simp [RegistersWritten, RegsBut, RestSame]

/-- What a redirected step leaves of the register writes before it (R29, R147, R148). -/
theorem branchTo_addCycles_frame {ds : List PhysReg} {s u : State} (h : RegistersWritten ds s u) (v : Word) (cost : Nat) :
    let t := (u.branchTo v).addCycles cost
    RegsBut ds s t ∧ t.cpsr = s.cpsr ∧ Redirected v cost s t ∧ RestSame s t := by
  obtain ⟨hregs, -, hcpsr, hcycles, hrest⟩ := h
  refine ⟨fun p hp hds => ?_, hcpsr, ⟨rfl, ?_⟩, hrest⟩
  · rw [phys_addCycles, phys_branchTo, if_neg hp, hregs p hp hds]
  · rw [addCycles_cycles, branchTo_cycles, hcycles]

/-! ### B and BL -/

/-- Settles O39: BL is B after the one write of r14, and a failing condition skips both. -/
theorem wideBranches : Obligations.WideBranches := by
  intro c offset s
  have hlr : (14 : Reg) ≠ 15 := by decide
  rw [← branchTarget_eq]
  refine ⟨fun hc => ⟨?_, ?_⟩, fun hc => ⟨gate_of_fails _ hc, gate_of_fails _ hc⟩⟩
  · exact ⟨_, gate_of_passes _ hc, branchTo_addCycles_frame (registersWritten_refl s) _ 3⟩
  · refine ⟨_, gate_of_passes _ hc, ?_, branchTo_addCycles_frame (registersWritten_setReg s _ hlr) _ 3⟩
    rw [phys_addCycles, phys_branchTo, if_neg (physOf_ne_pc hlr), phys_setReg_same s _ hlr]

end Sys2Proof.Machine
end

section
/-! PROOFS. The software interrupt of both forms (47_swi_and_unrecognized.md R300, R393) and the words that end a step (R304, R305).
A `NotRecognized` instruction is reported with the word that encodes it, and the decoder puts the word it reads into it. -/

namespace Sys2Proof

/-! ### The raw word of a `NotRecognized` instruction

On a branch that recognizes the word, the premise that there is no category is impossible. -/

theorem encode_decodeHalfword_of_category_eq_none {w : Word} :
    (decodeHalfword w).category = none → encode (decodeHalfword w) = .wide w := by
  unfold decodeHalfword
  repeat' split
  all_goals rintro ⟨⟩
  all_goals rfl

theorem encode_decodeSingle_of_category_eq_none {w : Word} :
    (decodeSingle w).category = none → encode (decodeSingle w) = .wide w := by
  unfold decodeSingle
  repeat' split
  all_goals rintro ⟨⟩
  rfl

/-- The rows of R103 in their order: the rows 7 and 9, and what no row takes, hold the words that are not recognized. -/
theorem encode_decodeWide_of_category_eq_none {w : Word} :
    (decodeWide w).category = none → encode (decodeWide w) = .wide w := by
  unfold decodeWide
  split
  · rintro ⟨⟩
  split
  · rintro ⟨⟩
  split
  · split <;> rintro ⟨⟩
  split
  · exact fun e => absurd e (category_decodeMultiply_ne_none w)
  split
  · split <;> rintro ⟨⟩
  split
  · exact encode_decodeHalfword_of_category_eq_none
  split
  · rw [category_decodeDataProc]; rintro ⟨⟩
  split
  · exact encode_decodeSingle_of_category_eq_none
  split
  · split <;> rintro ⟨⟩
  · exact fun _ => rfl

theorem encode_decodeFormat5_of_category_eq_none {h : Half} :
    (decodeFormat5 h).category = none → encode (decodeFormat5 h) = .narrow h := by
  unfold decodeFormat5
  repeat' split
  all_goals rintro ⟨⟩
  all_goals rfl

theorem encode_decodeMisc_of_category_eq_none {h : Half} :
    (decodeMisc h).category = none → encode (decodeMisc h) = .narrow h := by
  unfold decodeMisc
  repeat' split
  all_goals rintro ⟨⟩
  rfl

theorem encode_decodeFormat1617_of_category_eq_none {h : Half} :
    (decodeFormat1617 h).category = none → encode (decodeFormat1617 h) = .narrow h := by
  unfold decodeFormat1617
  repeat' split
  all_goals rintro ⟨⟩
  rfl

/-- Of the spaces `h[15:12]` four hold halfwords that are not recognized (R123, R129, R131). -/
theorem encode_decodeNarrow_of_category_eq_none {h : Half} :
    (decodeNarrow h).category = none → encode (decodeNarrow h) = .narrow h := by
  unfold decodeNarrow
  split
  case h_1 | h_2 => exact fun e => absurd e (category_decodeFormat12_ne_none h)
  case h_3 | h_4 => rw [category_decodeFormat3]; rintro ⟨⟩
  case h_5 =>
    split
    · rintro ⟨⟩
    split
    · exact encode_decodeFormat5_of_category_eq_none
    · rw [category_decodeFormat4]; rintro ⟨⟩
  case h_6 => exact fun e => absurd e (category_decodeFormat78_ne_none h)
  case h_7 | h_8 => rw [category_decodeFormat9]; rintro ⟨⟩
  case h_9 | h_10 | h_11 | h_13 | h_16 => split <;> rintro ⟨⟩
  case h_12 => exact encode_decodeMisc_of_category_eq_none
  case h_14 => exact encode_decodeFormat1617_of_category_eq_none
  case h_15 =>
    split
    · exact fun _ => rfl
    · rintro ⟨⟩

/-- Where the decoder recognizes nothing, it keeps the word it read (R304). -/
theorem encode_decode_of_category_eq_none {c : CodeWord} (h : (decode c).category = none) : encode (decode c) = c := by
  cases c with
  | wide w => exact encode_decodeWide_of_category_eq_none h
  | narrow half => exact encode_decodeNarrow_of_category_eq_none h

end Sys2Proof

namespace Sys2Proof.Machine

open Sys2Proof

/-- A `NotRecognized` instruction ends with `DecodeError`, which carries its address and its word (R304). -/
theorem exec_of_category_eq_none {i : Instr} (h : i.category = none) (s : State) :
    exec i s = .fault (.decodeError s.pc (encode i).value) := by
  cases i with
  | nrHalfwordSpace | nrUndefinedSpace | nrCoprocessorSpace | nrHighRegisterSpace | nrCond14 | nrNarrow => rfl
  | _ => exact absurd h (Option.some_ne_none _)

/-! ### The executing path of the step -/

/-- Path 3 of the step (R140). -/
theorem step_of_running {s : State} (hp : s.checkPending = false) (hh : s.halted = false) : step s = s.executeOne := by
  rw [step, hp, if_neg Bool.false_ne_true, hh, if_neg Bool.false_ne_true]

theorem executeOne_of_unimplemented {s : State} {cat : Category} (hcat : (decode s.fetch.1).category = some cat)
    (hmem : cat ∈ s.cfg.unimplemented) : s.executeOne = .fault (.notImplemented s.pc s.fetch.1.value cat) := by
  simp only [State.executeOne, hcat]
  exact if_pos (List.contains_iff_mem.2 hmem)

/-- Settles O55: a `NotRecognized` instruction encodes to the word it was made from, which for a decoded one is the word fetched;
a category that is left out ends path 3 before the instruction runs. -/
theorem notRecognizedStops : Obligations.NotRecognizedStops := by
  refine ⟨fun s w h => ?_, fun s hp hh => ?_⟩
  · have hstop {i : Instr} (hi : i.category = none) := exec_of_category_eq_none hi s
    exact ⟨hstop rfl, hstop rfl, hstop rfl, hstop rfl, hstop rfl, hstop rfl⟩
  rw [step_of_running hp hh]
  refine ⟨fun cat => executeOne_of_unimplemented, fun hnone => ?_⟩
  obtain ⟨-, -, hpc, -, -⟩ := fetch_frame s
  rw [executeOne_eq s (by simp [hnone]), exec_of_category_eq_none hnone, encode_decode_of_category_eq_none hnone, hpc]

/-! ### The entry of the software interrupt -/

/-- What an entry followed by a cost leaves (R440, R148): nothing but the SPSR and the r14 of the mode entered, CPSR, r15 and
`CYCLES` changes. -/
theorem enter_addCycles_frame (s : State) (e : ExcMode) (vector link : Word) (cost : Nat) :
    let t := (s.enter e vector link).addCycles cost
    t.spsr = s.spsr.set e s.cpsr ∧ t.phys (.lr e.toMode.bank) = link ∧
      t.cpsr = { s.cpsr with m := e.toMode.bits, i := true, t := false } ∧ t.pc = vector &&& 0xFFFFFFFC#32 ∧
      t.cycles = s.cycles + cost ∧ RegsBut [.lr e.toMode.bank] s t ∧
      t.ie = s.ie ∧ t.ifr = s.ifr ∧ t.ime = s.ime ∧ t.halted = s.halted ∧ t.mem = s.mem ∧ t.cfg = s.cfg ∧
      t.draws = s.draws ∧ t.bus = s.bus := by
  have hlr : PhysReg.lr e.toMode.bank ≠ .pc := PhysReg.noConfusion
  refine ⟨enter_spsr s e vector link, ?_, enter_cpsr s e vector link, enter_pc s e vector link, ?_, fun p hp hds => ?_, ?_⟩
  · rw [phys_addCycles, enter_phys _ _ _ _ hlr, if_pos rfl]
  · rw [addCycles_cycles, enter_cycles]
  · rw [phys_addCycles, enter_phys _ _ _ _ hp, if_neg fun h => hds (List.mem_singleton.2 h)]
  · simp

/-- Settles O41: both forms are the one entry, the wide one behind its gate. -/
theorem softwareInterrupt : Obligations.SoftwareInterrupt := by
  refine ⟨fun s c x hc => gate_of_fails _ hc, fun i s hi => ?_⟩
  have hexec : exec i s = s.softwareInterrupt := by
    rcases hi with ⟨c, x, rfl, hc⟩ | ⟨x, rfl⟩
    · exact gate_of_passes _ hc
    · rfl
  exact ⟨_, hexec, enter_addCycles_frame s (swiTarget s.cfg.swiMode) s.cfg.vecSwi (s.pc - 4) 3⟩

end Sys2Proof.Machine
end

section
/-! PROOFS. The operations of format 5 on the high registers (48_narrow_formats_1_to_9.md R345 to R349), and the branch-exchange
of both forms (R236). -/

namespace Sys2Proof.Machine

open Sys2Proof

/-! ### Branch-exchange -/

/-- What a branch-exchange leaves (R236, R349). -/
theorem exchange_frame (s : State) (v : Word) :
    ∃ t, s.exchange v = .next t ∧ RegsBut [] s t ∧ t.cpsr = { s.cpsr with t := v.getLsbD 0 } ∧ Redirected v 3 s t ∧
      RestSame s t := by
  obtain ⟨hcpsr, hregs, hend⟩ := setCpsr_branchTo_frame s { s.cpsr with t := v.getLsbD 0 } v 3
  exact ⟨_, rfl, hregs, hcpsr, hend⟩

/-- Settles O40: both forms are the one exchange, the wide one behind its gate. -/
theorem branchExchange : Obligations.BranchExchange := by
  intro r s
  refine ⟨fun c hc => ?_, exchange_frame s (s.rdOp .narrow r)⟩
  obtain ⟨t, ht, hframe⟩ := exchange_frame s (s.rdOp .wide r)
  exact ⟨t, (gate_of_passes _ hc).trans ht, hframe⟩

/-! ### The ends of ADD, CMP and MOV -/

/-- What an advance leaves of the register writes before it (R147, R148). -/
theorem setRawPc_addCycles_frame {ds : List PhysReg} {s u : State} (h : RegistersWritten ds s u) (f : Form) (cost : Nat) :
    let t := (u.setRawPc (u.pc + f.size)).addCycles cost
    RegsBut ds s t ∧ t.cpsr = s.cpsr ∧ Sequential f cost s t ∧ RestSame s t := by
  obtain ⟨hregs, hpc, hcpsr, hcycles, hrest⟩ := h
  refine ⟨fun p hp hds => ?_, hcpsr, ⟨?_, ?_⟩, hrest⟩
  · rw [phys_addCycles, phys_setRawPc, if_neg hp, hregs p hp hds]
  · rw [addCycles_pc, setRawPc_pc, hpc]
  · rw [addCycles_cycles, setRawPc_cycles, hcycles]

/-- The flags of a compare, which are those of the exact difference (R181, R198). -/
theorem aluResult_cmp_flags (a b : Word) (shc : Bool) (old : Flags) :
    (aluResult .cmp a b shc old).2 =
      { n := (a - b).getLsbD 31
        z := decide (a = b)
        c := decide (b.toNat ≤ a.toNat)
        v := decide (a.toInt - b.toInt < -2 ^ 31 ∨ 2 ^ 31 ≤ a.toInt - b.toInt) } := by
  have hdiff : BitVec.ofInt 32 (a.toNat - b.toNat) = a - b :=
    BitVec.eq_of_toNat_eq (by rw [BitVec.toNat_ofInt, BitVec.toNat_sub]; omega)
  have hzero : a - b = 0 ↔ a = b := by bv_omega
  have hcarry : (0 : Int) ≤ a.toNat - b.toNat ↔ b.toNat ≤ a.toNat := by omega
  rw [arithmeticResults .cmp a b shc old _ _ rfl rfl, hdiff, decide_eq_decide.2 hzero, decide_eq_decide.2 hcarry]
  rfl

/-- ADD and MOV of format 5 end alike, with the sum or with the source; CMP has its own end (R346 to R348). -/
theorem exec_of_highOf {i : Instr} {op : AluOp} {src dst : Reg} (h : highOf i = some (op, src, dst)) (s : State) :
    exec i s =
      if op = .cmp then highCmp src dst s
      else highWrite dst (if op = .mov then s.rdOp .narrow src else s.rdOp .narrow dst + s.rdOp .narrow src) s := by
  unfold highOf at h
  split at h <;> cases h <;> rfl

theorem highWrite_r15 (r : Word) (s : State) : highWrite 15 r s = s.finishAt r (s.cfg.cost.dataProc + 2) := if_pos rfl

theorem highWrite_of_ne {rd : Reg} (hrd : rd ≠ 15) (r : Word) (s : State) :
    highWrite rd r s = (s.setReg rd r).finish .narrow s.cfg.cost.dataProc := if_neg hrd

/-- Settles O49: CMP is an advance of the state with the new flags, a write of r15 a redirection, and every other write an advance
after the one register write. -/
theorem highRegisterOperations : Obligations.HighRegisterOperations := by
  intro i op src dst s h a b r
  have hexec : exec i s = if op = .cmp then highCmp src dst s else highWrite dst r s := exec_of_highOf h s
  refine ⟨fun hop => ?_, fun hop hdst => ?_, fun hop hdst => ?_⟩
  · -- the state with the new flags differs from `s` in CPSR alone, so what stays as it is there stays as it is in `s`
    obtain ⟨hregs, hcpsr, hend⟩ := setRawPc_addCycles_frame (registersWritten_refl
      (s.setFlags (aluResult .cmp a b s.cpsr.c s.flags).2)) .narrow s.cfg.cost.dataProc
    have hflags := congrArg (withFlags s.cpsr) (aluResult_cmp_flags a b s.cpsr.c s.flags)
    exact ⟨_, hexec.trans (if_pos hop), hregs, hcpsr.trans hflags, hend⟩
  · rw [hexec, if_neg hop, highWrite_of_ne hdst]
    refine ⟨_, rfl, ?_, setRawPc_addCycles_frame (registersWritten_setReg s r hdst) .narrow _⟩
    rw [phys_addCycles, phys_setRawPc, if_neg (physOf_ne_pc hdst), phys_setReg_same s r hdst]
  · rw [hexec, if_neg hop, hdst, highWrite_r15]
    exact ⟨_, rfl, branchTo_addCycles_frame (registersWritten_refl s) r _⟩

end Sys2Proof.Machine
end

section
/-! PROOFS. ADD from pc, the branches and the two halves of the branch with link of the narrow form
(49_narrow_formats_10_to_19.md R378, R388, R389, R395, R397 to R399). Each writes at most one register and then either advances or
is redirected. -/

namespace Sys2Proof.Machine

open Sys2Proof

/-! ### The offsets -/

/-- An unsigned field shifted left by `n` counts units of `2 ^ n` bytes (R13). -/
theorem zext_shiftLeft_eq_ofNat {k : Nat} (x : BitVec k) (n : Nat) : zext x <<< n = BitVec.ofNat 32 (2 ^ n * x.toNat) := by
  apply BitVec.eq_of_toNat_eq
  rw [zext, BitVec.toNat_shiftLeft, BitVec.toNat_setWidth, BitVec.toNat_ofNat, Nat.shiftLeft_eq, Nat.mod_mul_mod, Nat.mul_comm]

/-- The two parts of the offset of a branch with link, added one after the other, are added as one (R397). -/
theorem add_ofInt_add_ofNat (base : Word) (upper : Int) (lower : Nat) :
    base + BitVec.ofInt 32 upper + BitVec.ofNat 32 lower = base + BitVec.ofInt 32 (upper + lower) := by
  rw [BitVec.add_assoc, BitVec.ofInt_add, BitVec.ofInt_natCast]

/-- An aligned narrow program counter plus a count of halfwords is a target that the masking leaves as it is (R29). -/
theorem alignPc_narrow_add_halfwords {pc : Word} (h : alignPc true pc = pc) (n : Int) :
    alignPc true (pc + 4 + BitVec.ofInt 32 (2 * n)) = pc + 4 + BitVec.ofInt 32 (2 * n) := by
  have hfour : (4 : Word).toNat = 4 := rfl
  rw [alignPc_eq_iff, if_pos rfl] at h ⊢
  rw [BitVec.toNat_add, BitVec.toNat_add, BitVec.toNat_ofInt, hfour]
  omega

/-! ### One register write and the end of the step -/

/-- What a step leaves that writes one register and advances (R147, R148). -/
theorem setReg_finish_frame (s : State) {i : Reg} (v : Word) (hi : i ≠ 15) (f : Form) (cost : Nat) :
    ∃ t, (s.setReg i v).finish f cost = .next t ∧ t.phys (physOf s.cpsr.m i) = v ∧ RegsBut [physOf s.cpsr.m i] s t ∧
      t.cpsr = s.cpsr ∧ Sequential f cost s t ∧ RestSame s t := by
  refine ⟨_, rfl, ?_, setRawPc_addCycles_frame (registersWritten_setReg s v hi) f cost⟩
  rw [phys_addCycles, phys_setRawPc, if_neg (physOf_ne_pc hi), phys_setReg_same s v hi]

/-- What a step leaves that writes one register and is redirected (R29, R147, R148). -/
theorem setReg_finishAt_frame (s : State) {i : Reg} (v target : Word) (hi : i ≠ 15) (cost : Nat) :
    ∃ t, (s.setReg i v).finishAt target cost = .next t ∧ t.phys (physOf s.cpsr.m i) = v ∧
      RegsBut [physOf s.cpsr.m i] s t ∧ t.cpsr = s.cpsr ∧ Redirected target cost s t ∧ RestSame s t := by
  refine ⟨_, rfl, ?_, branchTo_addCycles_frame (registersWritten_setReg s v hi) target cost⟩
  rw [phys_addCycles, phys_branchTo, if_neg (physOf_ne_pc hi), phys_setReg_same s v hi]

/-! ### The branch with link -/

/-- The first half as the statements spell its offset (R398). -/
theorem exec_tBlFirst (hi : BitVec 11) (s : State) :
    exec (.tBlFirst hi) s =
      (s.setReg 14 (s.pc + 4 + BitVec.ofInt 32 (4096 * hi.toInt))).finish .narrow s.cfg.cost.blFirst := by
  have hoffset : sext hi <<< 12 = BitVec.ofInt 32 (4096 * hi.toInt) := sext_shiftLeft_eq_ofInt hi 12
  rw [← hoffset]
  rfl

/-- The second half as the statements spell its offset (R399). -/
theorem exec_tBlSecond (lo : BitVec 11) (s : State) :
    exec (.tBlSecond lo) s = (s.setReg 14 (s.pc - 4)).finishAt (s.reg 14 + BitVec.ofNat 32 (2 * lo.toNat)) 3 := by
  have hoffset : zext lo <<< 1 = BitVec.ofNat 32 (2 * lo.toNat) := zext_shiftLeft_eq_ofNat lo 1
  rw [← hoffset]
  rfl

/-- The pair, from what each half does: the second finds in r14 what the first put there, and at its own address, 2 past the first,
leaves `ia - 4` (R397). -/
theorem exec_tBlFirst_tBlSecond {s : State} (hi lo : BitVec 11) (ht : s.cpsr.t = true) (hpc : s.pcAligned) :
    ∃ t u, exec (.tBlFirst hi) s = .next t ∧ exec (.tBlSecond lo) t = .next u ∧
      u.pc = s.pc + 4 + BitVec.ofInt 32 (4096 * hi.toInt + 2 * (lo.toNat : Int)) ∧ u.reg 14 = s.pc - 2 := by
  have hlr : (14 : Reg) ≠ 15 := by decide
  obtain ⟨t, hfirst, hupper, -, hcpsr, ⟨htpc, -⟩, -⟩ :=
    setReg_finish_frame s (s.pc + 4 + BitVec.ofInt 32 (4096 * hi.toInt)) hlr .narrow s.cfg.cost.blFirst
  obtain ⟨u, hsecond, hlink, -, hcpsr', ⟨hupc, -⟩, -⟩ :=
    setReg_finishAt_frame t (t.pc - 4) (t.reg 14 + BitVec.ofNat 32 (2 * lo.toNat)) hlr 3
  refine ⟨t, u, (exec_tBlFirst hi s).trans hfirst, (exec_tBlSecond lo t).trans hsecond, ?_, ?_⟩
  · have htarget : t.reg 14 + BitVec.ofNat 32 (2 * lo.toNat) =
        s.pc + 4 + BitVec.ofInt 32 (4096 * hi.toInt + 2 * (lo.toNat : Int)) := by
      rw [State.reg, hcpsr, hupper, add_ofInt_add_ofNat, Int.natCast_mul]
      rfl
    have hhalfwords : 4096 * hi.toInt + 2 * (lo.toNat : Int) = 2 * (2048 * hi.toInt + lo.toNat) := by omega
    rw [State.pcAligned, ht] at hpc
    rw [hupc, hcpsr', hcpsr, ht, htarget, hhalfwords, alignPc_narrow_add_halfwords hpc]
  · rw [State.reg, hcpsr', hlink, htpc, Form.size]
    bv_omega

/-- Settles O54: each half is one write of r14 and the end of its step, and the pair follows from the two halves. -/
theorem narrowBranchWithLink : Obligations.NarrowBranchWithLink := by
  intro s hi lo
  have hlr : (14 : Reg) ≠ 15 := by decide
  refine ⟨?_, ?_, exec_tBlFirst_tBlSecond hi lo⟩
  · rw [exec_tBlFirst]
    exact setReg_finish_frame s _ hlr .narrow _
  · rw [exec_tBlSecond]
    exact setReg_finishAt_frame s _ _ hlr 3

/-! ### ADD from pc and the branches without link -/

/-- Settles O52: one write of a low register, then the advance. -/
theorem narrowAddPc : Obligations.NarrowAddPc := by
  intro rd word8 s
  have hoffset : zext word8 <<< 2 = BitVec.ofNat 32 (4 * word8.toNat) := zext_shiftLeft_eq_ofNat word8 2
  rw [← hoffset]
  exact setReg_finish_frame s (s.pcBase + (zext word8 <<< 2)) (toReg_ne_15 rd) .narrow s.cfg.cost.dataProc

/-- What a taken narrow branch does: nothing but the redirection to a target that counts halfwords from `ia + 4` (R388). -/
theorem finishAt_halfwords_frame {k : Nat} (x : BitVec k) (s : State) :
    ∃ t, s.finishAt (s.pc + 4 + (sext x <<< 1)) 3 = .next t ∧ RegsBut [] s t ∧ t.cpsr = s.cpsr ∧
      Redirected (s.pc + 4 + BitVec.ofInt 32 (2 * x.toInt)) 3 s t ∧ RestSame s t := by
  have hoffset : sext x <<< 1 = BitVec.ofInt 32 (2 * x.toInt) := sext_shiftLeft_eq_ofInt x 1
  rw [hoffset]
  exact ⟨_, rfl, branchTo_addCycles_frame (registersWritten_refl s) _ 3⟩

/-- Settles O53: a taken branch of either format is the one redirection, and a failing condition leaves the advance by 2. -/
theorem narrowBranches : Obligations.NarrowBranches := by
  refine fun s => ⟨fun c x hc => ?_, fun c x hc => ?_, fun x => finishAt_halfwords_frame x s⟩
  · obtain ⟨t, ht, hframe⟩ := finishAt_halfwords_frame x s
    exact ⟨t, (if_pos hc).trans ht, hframe⟩
  · exact if_neg (Bool.eq_false_iff.1 hc)

end Sys2Proof.Machine
end

section
/-! PROOFS. The interrupt controller and the servicing of interrupts (60_exceptions.md R421 to R433, R440, R441). -/

namespace Sys2Proof.Machine

open Sys2Proof

/-! ### Interrupt types and their masks (R421, R432) -/

/-- The mask of a type has that type's bit and no other. -/
theorem bit_typeBit (k : Fin 14) (j : Nat) : (typeBit k).getLsbD j = (j == k.val) := by
  rw [typeBit, bit_putBit, Bool.and_true, Bool.eq_iff_iff]
  simp only [Bool.and_eq_true, decide_eq_true_eq, beq_iff_eq]
  omega

/-- A mask meets the mask of a type exactly in that type's bit. -/
theorem and_typeBit_eq_zero_iff (x : BitVec 14) (k : Fin 14) : x &&& typeBit k = 0 ↔ x.getLsbD k.val = false := by
  have hbit (j : Nat) : (x &&& typeBit k).getLsbD j = (x.getLsbD j && j == k.val) := by rw [BitVec.getLsbD_and, bit_typeBit]
  constructor
  · intro h
    have hk := hbit k.val
    rw [h, beq_self_eq_true, Bool.and_true] at hk
    exact hk.symm.trans BitVec.getLsbD_zero
  · intro h
    refine BitVec.eq_of_getLsbD_eq fun j _ => Eq.trans ?_ BitVec.getLsbD_zero.symm
    rw [hbit]
    by_cases hj : j = k.val
    · rw [hj, h, Bool.false_and]
    · rw [beq_false_of_ne hj, Bool.and_false]

/-- The types in ascending order are the numbers below 14. -/
theorem allTypes_eq_finRange : allTypes = List.finRange 14 := by decide

/-- The winner's bit is set and no lower one is (R432). -/
theorem lowestType_eq_some {x : BitVec 14} {k : Fin 14} (h : lowestType x = some k) :
    x.getLsbD k.val = true ∧ ∀ j : Nat, j < k.val → x.getLsbD j = false := by
  rw [lowestType, allTypes_eq_finRange, List.find?_eq_some_iff_getElem] at h
  obtain ⟨hk, i, hi, hik, hbelow⟩ := h
  rw [List.getElem_finRange] at hik
  refine ⟨hk, fun j hj => ?_⟩
  have hji : j < i := by simpa [← hik] using hj
  simpa using hbelow j hji

/-- A mask with a bit set has a winner. -/
theorem exists_lowestType_of_ne_zero {x : BitVec 14} (h : x ≠ 0) : ∃ k, lowestType x = some k := by
  refine Option.ne_none_iff_exists'.1 fun hnone => h (BitVec.eq_of_getLsbD_eq fun j hj => ?_)
  rw [lowestType, allTypes_eq_finRange, List.find?_eq_none] at hnone
  exact (Bool.eq_false_iff.2 (hnone ⟨j, hj⟩ (List.mem_finRange _))).trans BitVec.getLsbD_zero.symm

/-! ### Requests (R428) -/

/-- Settles O20: a request is that of the mask of one type, which sets that bit of `IF` and meets `IE` in that bit. -/
theorem requestInterrupt : Obligations.RequestInterrupt := by
  refine fun s k => ⟨fun j => ?_, ?_, rfl⟩
  · rw [State.requestInterrupt, requestMask_ifr, BitVec.getLsbD_or, bit_typeBit]
  · have hmeets : ((s.ie &&& typeBit k) == 0) = !s.ie.getLsbD k.val := by
      rw [Bool.eq_iff_iff, beq_iff_eq, and_typeBit_eq_zero_iff, Bool.not_eq_true']
    rw [State.requestInterrupt, requestMask_halted, hmeets]

/-! ### Servicing (R431, R432, R440, R441) -/

/-- Path 1 of the step (R140). -/
theorem step_of_checkPending {s : State} (hp : s.checkPending = true) : step s = .next s.serviceInterrupt := by
  rw [step, if_pos hp]

/-- The master enable with a requested and enabled type makes an interrupt serviceable (R431). -/
theorem checkPending_of_ime {s : State} (hime : s.ime = true) (hreq : s.ie &&& s.ifr ≠ 0) : s.checkPending = true := by
  rw [State.checkPending, hime, Bool.true_and, bne_iff_ne]
  exact hreq

/-- The winner's bit of `IF` is cleared, and no other (R441). -/
theorem bit_clearWinner {s : State} {k : Fin 14} (h : lowestType (s.ie &&& s.ifr) = some k) (j : Nat) :
    s.clearWinner.getLsbD j = (s.ifr.getLsbD j && j != k.val) := by
  rw [State.clearWinner, h]
  by_cases hj : j < 14
  · rw [BitVec.getLsbD_and, BitVec.getLsbD_not, bit_typeBit, decide_eq_true hj, Bool.true_and, bne]
  · rw [BitVec.getLsbD_of_ge _ j (by omega), BitVec.getLsbD_of_ge s.ifr j (by omega), Bool.false_and]

/-- Servicing is the entry into IRQ mode at cost 3, then two fields of the interrupt state (R441). -/
theorem serviceInterrupt_eq (s : State) :
    s.serviceInterrupt =
      (((s.enter .irq s.cfg.vecIrq (s.pc - 4)).addCycles 3).setIfr s.clearWinner).setHalted false := rfl

/-- Settles O19: the step takes path 1, whose entry has the frame of every entry, and the bits of `IE & IF` name the winner. -/
theorem interruptServicing : Obligations.InterruptServicing := by
  intro s hime hreq
  obtain ⟨k, hk⟩ := exists_lowestType_of_ne_zero hreq
  obtain ⟨hwins, hbelow⟩ := lowestType_eq_some hk
  rw [BitVec.getLsbD_and, Bool.and_eq_true] at hwins
  obtain ⟨hspsr, hlr, hcpsr, hpc, hcycles, hregs, hie, -, hime', -, hmem, hcfg, hdraws, hbus⟩ :=
    enter_addCycles_frame s .irq s.cfg.vecIrq (s.pc - 4) 3
  refine ⟨k, _, step_of_checkPending (checkPending_of_ime hime hreq), hwins.1, hwins.2, fun j hj hboth => ?_,
    bit_clearWinner hk, rfl, hpc, hcpsr, hspsr, ?_, fun p hp hds => ?_, hcycles, hie, hime', hmem, hcfg, hdraws, hbus⟩
  · have hunset := hbelow j hj
    rw [BitVec.getLsbD_and, hboth.1, hboth.2] at hunset
    exact Bool.noConfusion hunset
  · rw [serviceInterrupt_eq, phys_setHalted, phys_setIfr]
    exact hlr
  · rw [serviceInterrupt_eq, phys_setHalted, phys_setIfr]
    exact hregs p hp hds

/-! ### The registers of the interrupt controller: which address is which (R423) -/

/-- The addresses of the bytes of `IE`, `IF` and `IME`, and of the halt control. -/
def intcAddresses (c : Config) : List Word :=
  [c.addrIe, c.addrIe + 1, c.addrIf, c.addrIf + 1, c.addrIme, c.addrIme + 1, c.addrIme + 2, c.addrIme + 3, c.addrHaltcnt]

/-- When the addresses are pairwise different, none is one of those that precede it in the tests of `intcRead` and `intcWrite`. -/
theorem intcAddresses_separate {c : Config} (hd : (intcAddresses c).Nodup) :
    c.addrIe + 1 ∉ [c.addrIe] ∧ c.addrIf ∉ [c.addrIe, c.addrIe + 1] ∧
      c.addrIf + 1 ∉ [c.addrIe, c.addrIe + 1, c.addrIf] ∧
      c.addrIme ∉ [c.addrIe, c.addrIe + 1, c.addrIf, c.addrIf + 1] ∧
      (∀ p ∈ [c.addrIme + 1, c.addrIme + 2, c.addrIme + 3, c.addrHaltcnt],
        p ∉ [c.addrIe, c.addrIe + 1, c.addrIf, c.addrIf + 1, c.addrIme]) ∧
      ∀ p ∈ [c.addrIme + 1, c.addrIme + 2, c.addrIme + 3], p ≠ c.addrHaltcnt := by
  simp only [intcAddresses, List.nodup_cons, List.mem_cons, not_or, List.not_mem_nil, not_false_eq_true, and_true,
    forall_eq_or_imp, IsEmpty.forall_iff, implies_true] at hd ⊢
  grind

/-! ### Reads (R423) -/

theorem byteRead_of_intc {s : State} {p : Word} (hk : s.kind p = .intc) : s.byteRead p = (s.intcRead p, s) := by
  simp only [State.byteRead, hk]

/-- The low byte of `IE` or `IF`. -/
theorem bit_lowByte (x : BitVec 14) {j : Nat} (hj : j < 8) : (x.extractLsb' 0 8).getLsbD j = x.getLsbD j := by
  rw [BitVec.getLsbD_extractLsb', decide_eq_true hj, Bool.true_and, Nat.zero_add]

/-- The high byte of `IE` or `IF`, zero above the six bits there are. -/
theorem bit_highByte (x : BitVec 14) {j : Nat} (hj : j < 8) :
    ((x.extractLsb' 8 6).setWidth 8).getLsbD j = x.getLsbD (8 + j) := by
  rw [BitVec.getLsbD_setWidth, decide_eq_true hj, Bool.true_and, BitVec.getLsbD_extractLsb']
  by_cases h : j < 6
  · rw [decide_eq_true h, Bool.true_and]
  · rw [decide_eq_false h, Bool.false_and, BitVec.getLsbD_of_ge x (8 + j) (by omega)]

/-- A byte of an INTC region that no register occupies reads as 0, and so does the halt control (R423). -/
theorem intcRead_eq_zero {s : State} {p : Word}
    (h : p ∉ [s.cfg.addrIe, s.cfg.addrIe + 1, s.cfg.addrIf, s.cfg.addrIf + 1, s.cfg.addrIme]) : s.intcRead p = 0 := by
  simp only [List.mem_cons, List.not_mem_nil, or_false, not_or] at h
  simp only [State.intcRead, h, if_false]

/-- Settles O21: an address that holds a register passes the tests before its own, and each byte is a lane of its register. -/
theorem intcReads : Obligations.IntcReads := by
  intro s p hd hk
  obtain ⟨hIe', hIf, hIf', hIme, hRest, -⟩ := intcAddresses_separate hd
  simp only [List.mem_cons, List.not_mem_nil, or_false, not_or] at hIe' hIf hIf' hIme
  rw [byteRead_of_intc hk]
  refine ⟨rfl, ?_, ?_, ?_, ?_, ?_, fun hp => intcRead_eq_zero (hRest p hp)⟩
  · rintro rfl j hj
    simp only [State.intcRead, if_true, bit_lowByte _ hj]
  · rintro rfl j hj
    simp only [State.intcRead, hIe', if_true, if_false, bit_highByte _ hj]
  · rintro rfl j hj
    simp only [State.intcRead, hIf, if_true, if_false, bit_lowByte _ hj]
  · rintro rfl j hj
    simp only [State.intcRead, hIf', if_true, if_false, bit_highByte _ hj]
  · rintro rfl
    simp only [State.intcRead, hIme, if_true, if_false]
    cases s.ime <;> rfl

/-! ### Writes (R424 to R427) -/

theorem byteWrite_of_intc {s : State} {p : Word} (hk : s.kind p = .intc) (b : Byte) : s.byteWrite p b = s.intcWrite p b := by
  simp only [State.byteWrite, hk]

/-- Past the tests for the bytes of `IE`, `IF` and `IME`, only the halt control is left (R427). -/
theorem intcWrite_of_notMem {s : State} {p : Word} {b : Byte}
    (h : p ∉ [s.cfg.addrIe, s.cfg.addrIe + 1, s.cfg.addrIf, s.cfg.addrIf + 1, s.cfg.addrIme]) :
    s.intcWrite p b = if p = s.cfg.addrHaltcnt then (if b.getLsbD 7 then s else s.setHalted true) else s := by
  simp only [List.mem_cons, List.not_mem_nil, or_false, not_or] at h
  simp only [State.intcWrite, h, if_false]

/-- The bits of the low lane are those of the byte. -/
theorem bit_intcLane_low (b : Byte) {j : Nat} (hj : j < 14) :
    (intcLane false b).getLsbD j = if j < 8 then b.getLsbD j else false := by
  rw [intcLane, if_neg Bool.false_ne_true, BitVec.getLsbD_setWidth, decide_eq_true hj, Bool.true_and]
  split
  · rfl
  · exact BitVec.getLsbD_of_ge b j (by omega)

/-- The bits of the high lane are those of the byte, 8 places up. -/
theorem bit_intcLane_high (b : Byte) {j : Nat} (hj : j < 14) :
    (intcLane true b).getLsbD j = if j < 8 then false else b.getLsbD (j - 8) := by
  rw [intcLane, if_pos rfl, BitVec.getLsbD_shiftLeft, BitVec.getLsbD_setWidth, decide_eq_true hj,
    decide_eq_true (by omega : j - 8 < 14)]
  by_cases h : j < 8 <;> simp [h]

theorem intcLaneMask_eq_allOnes (hi : Bool) : intcLaneMask hi = intcLane hi (BitVec.allOnes 8) := rfl

/-- What a write of `IE` leaves of it: the byte in its lane (R424). -/
theorem bit_replaceLow (x : BitVec 14) (b : Byte) {j : Nat} (hj : j < 14) :
    ((x &&& ~~~ intcLaneMask false) ||| intcLane false b).getLsbD j = if j < 8 then b.getLsbD j else x.getLsbD j := by
  rw [BitVec.getLsbD_or, BitVec.getLsbD_and, BitVec.getLsbD_not, intcLaneMask_eq_allOnes, bit_intcLane_low _ hj,
    bit_intcLane_low _ hj, BitVec.getLsbD_allOnes]
  by_cases h : j < 8 <;> simp [h, hj]

theorem bit_replaceHigh (x : BitVec 14) (b : Byte) {j : Nat} (hj : j < 14) :
    ((x &&& ~~~ intcLaneMask true) ||| intcLane true b).getLsbD j = if j < 8 then x.getLsbD j else b.getLsbD (j - 8) := by
  rw [BitVec.getLsbD_or, BitVec.getLsbD_and, BitVec.getLsbD_not, intcLaneMask_eq_allOnes, bit_intcLane_high _ hj,
    bit_intcLane_high _ hj, BitVec.getLsbD_allOnes]
  by_cases h : j < 8 <;> simp [h, hj, (by omega : j - 8 < 8)]

/-- What a write of `IF` leaves of it: the bits written as 1 are gone from its lane (R425). -/
theorem bit_clearLow (x : BitVec 14) (b : Byte) {j : Nat} (hj : j < 14) :
    (x &&& ~~~ intcLane false b).getLsbD j = if j < 8 then x.getLsbD j && !b.getLsbD j else x.getLsbD j := by
  rw [BitVec.getLsbD_and, BitVec.getLsbD_not, bit_intcLane_low _ hj]
  by_cases h : j < 8 <;> simp [h, hj]

theorem bit_clearHigh (x : BitVec 14) (b : Byte) {j : Nat} (hj : j < 14) :
    (x &&& ~~~ intcLane true b).getLsbD j = if j < 8 then x.getLsbD j else x.getLsbD j && !b.getLsbD (j - 8) := by
  rw [BitVec.getLsbD_and, BitVec.getLsbD_not, bit_intcLane_high _ hj]
  by_cases h : j < 8 <;> simp [h, hj]

/-- Settles O22: an address that holds a register passes the tests before its own, and the write there is one named update. -/
theorem intcWrites : Obligations.IntcWrites := by
  intro s p b hd hk
  obtain ⟨hIe', hIf, hIf', hIme, hRest, hHalt⟩ := intcAddresses_separate hd
  simp only [List.mem_cons, List.not_mem_nil, or_false, not_or] at hIe' hIf hIf' hIme
  rw [byteWrite_of_intc hk]
  refine ⟨?_, ?_, ?_, ?_, ?_, ?_, fun hp => ?_⟩
  · rintro rfl
    simp only [State.intcWrite, if_true]
    exact ⟨rfl, fun _ => bit_replaceLow s.ie b⟩
  · rintro rfl
    simp only [State.intcWrite, hIe', if_true, if_false]
    exact ⟨rfl, fun _ => bit_replaceHigh s.ie b⟩
  · rintro rfl
    simp only [State.intcWrite, hIf, if_true, if_false]
    exact ⟨rfl, fun _ => bit_clearLow s.ifr b⟩
  · rintro rfl
    simp only [State.intcWrite, hIf', if_true, if_false]
    exact ⟨rfl, fun _ => bit_clearHigh s.ifr b⟩
  · rintro rfl
    simp only [State.intcWrite, hIme, if_true, if_false]
    rfl
  · rintro rfl
    rw [intcWrite_of_notMem (hRest _ (by simp)), if_pos rfl]
    rfl
  · rw [intcWrite_of_notMem (hRest p (List.mem_append_left [s.cfg.addrHaltcnt] hp)), if_neg (hHalt p hp)]

end Sys2Proof.Machine
end

section
/-! PROOFS. The decoder and the encoder are inverse to each other (30_encoding.md R101 to R131). A field that is read and put back is
the word under the mask of that field, so an instruction that carries every field which the decoder did not fix encodes to the word
it was read from; the other way round, each test and each field of the decoder is read off the encoded word. -/

namespace Sys2Proof

/-! ### A word under a mask -/

/-- A field read and put back is the word under the mask of the field. -/
theorem putField_extract {n : Nat} (w : BitVec n) (lo k : Nat) :
    putField n lo (w.extractLsb' lo k) = w &&& putField n lo (BitVec.allOnes k) := by
  apply BitVec.eq_of_getLsbD_eq
  intro j hj
  rw [BitVec.getLsbD_and, bit_putField, bit_putField, BitVec.getLsbD_extractLsb', BitVec.getLsbD_allOnes]
  by_cases h : lo ≤ j
  · rw [Nat.add_sub_cancel' h]; cases w.getLsbD j <;> simp
  · simp [h]

theorem putBit_getLsbD {n : Nat} (w : BitVec n) (lo : Nat) : putBit n lo (w.getLsbD lo) = w &&& putBit n lo true := by
  rw [putBit, ← extract_one, putField_extract]; rfl

/-- A test of a field that succeeds, as one under a mask. -/
theorem mask_of_field {n lo k : Nat} {w : BitVec n} {x : BitVec k} (h : w.extractLsb' lo k = x) :
    w &&& putField n lo (BitVec.allOnes k) = putField n lo x := by
  rw [← putField_extract, h]

theorem mask_of_bit {n lo : Nat} {w : BitVec n} {b : Bool} (h : w.getLsbD lo = b) :
    w &&& putBit n lo true = putBit n lo b := by
  rw [← putBit_getLsbD, h]

/-- Tests under two masks are one under both. -/
theorem mask_or {n : Nat} {w m m' v v' : BitVec n} (h : w &&& m = v) (h' : w &&& m' = v') :
    w &&& (m ||| m') = v ||| v' := by
  rw [BitVec.and_or_distrib_left, h, h']

@[simp] theorem Cond.toBits_ofBits (x : BitVec 4) : (Cond.ofBits x).toBits = x := by revert x; decide
@[simp] theorem ShiftType.toBits_ofBits (x : BitVec 2) : (ShiftType.ofBits x).toBits = x := by revert x; decide
@[simp] theorem AluOp.toBits_ofBits (x : BitVec 4) : (AluOp.ofBits x).toBits = x := by revert x; decide

theorem putCond_condAt (w : Word) : putCond (condAt w) = w &&& 0xF0000000#32 := by
  rw [putCond, condAt, Cond.toBits_ofBits, putField_extract]; rfl

theorem putReg_regAt (w : Word) (lo : Nat) : putReg lo (regAt w lo) = w &&& putField 32 lo (BitVec.allOnes 4) :=
  putField_extract w lo 4

theorem putLow_lowAt (h : Half) (lo : Nat) : putLow lo (lowAt h lo) = h &&& putField 16 lo (BitVec.allOnes 3) :=
  putField_extract h lo 3

theorem putIndex_getLsbD (w : Word) : putIndex (w.getLsbD 24) (w.getLsbD 23) (w.getLsbD 21) = w &&& 0x01A00000#32 := by
  rw [putIndex, putBit_getLsbD, putBit_getLsbD, putBit_getLsbD, ← BitVec.and_or_distrib_left, ← BitVec.and_or_distrib_left]
  rfl

/-! ### Each shape of word, put together from its own fields -/

theorem encodeMultiply_fields {w base : Word} (h : w &&& 0x0FE000F0#32 = base ||| 0x90#32) :
    encodeMultiply base (condAt w) (w.getLsbD 20) (regAt w 16) (regAt w 12) (regAt w 8) (regAt w 0) = w := by
  simp only [encodeMultiply, ← h, putCond_condAt, putBit_getLsbD, putReg_regAt, ← BitVec.and_or_distrib_left]
  exact BitVec.and_allOnes

theorem encodeHalfImm_fields {w base : Word} (h : w &&& 0x0E5000F0#32 = base) :
    encodeHalfImm base (condAt w) (w.getLsbD 24) (w.getLsbD 23) (w.getLsbD 21) (regAt w 16) (regAt w 12)
      (w.extractLsb' 8 4 ++ w.extractLsb' 0 4) = w := by
  simp only [encodeHalfImm, ← h, BitVec.extractLsb'_append_eq_left, BitVec.extractLsb'_append_eq_right, putField_extract,
    putCond_condAt, putIndex_getLsbD, putReg_regAt, ← BitVec.and_or_distrib_left]
  exact BitVec.and_allOnes

theorem encodeHalfReg_fields {w base : Word} (h : w &&& 0x0E500FF0#32 = base) :
    encodeHalfReg base (condAt w) (w.getLsbD 24) (w.getLsbD 23) (w.getLsbD 21) (regAt w 16) (regAt w 12) (regAt w 0) = w := by
  simp only [encodeHalfReg, ← h, putCond_condAt, putIndex_getLsbD, putReg_regAt, ← BitVec.and_or_distrib_left]
  exact BitVec.and_allOnes

theorem encodeSingleImm_fields {w base : Word} (h : w &&& 0x0E500000#32 = 0x04000000#32 ||| base) :
    encodeSingleImm base (condAt w) (w.getLsbD 24) (w.getLsbD 23) (w.getLsbD 21) (regAt w 16) (regAt w 12)
      (w.extractLsb' 0 12) = w := by
  simp only [encodeSingleImm, ← h, putField_extract, putCond_condAt, putIndex_getLsbD, putReg_regAt,
    ← BitVec.and_or_distrib_left]
  exact BitVec.and_allOnes

theorem encodeSingleReg_fields {w base : Word} (h : w &&& 0x0E500010#32 = 0x06000000#32 ||| base) :
    encodeSingleReg base (condAt w) (w.getLsbD 24) (w.getLsbD 23) (w.getLsbD 21) (regAt w 16) (regAt w 12)
      (w.extractLsb' 7 5) (ShiftType.ofBits (w.extractLsb' 5 2)) (regAt w 0) = w := by
  simp only [encodeSingleReg, ← h, ShiftType.toBits_ofBits, putField_extract, putCond_condAt, putIndex_getLsbD, putReg_regAt,
    ← BitVec.and_or_distrib_left]
  exact BitVec.and_allOnes

theorem encodeBlock_fields {w base : Word} (h : w &&& 0x0E100000#32 = 0x08000000#32 ||| base) :
    encodeBlock base (condAt w) (w.getLsbD 24) (w.getLsbD 23) (w.getLsbD 22) (w.getLsbD 21) (regAt w 16)
      (w.extractLsb' 0 16) = w := by
  simp only [encodeBlock, ← h, putField_extract, putBit_getLsbD, putCond_condAt, putIndex_getLsbD, putReg_regAt,
    ← BitVec.and_or_distrib_left]
  exact BitVec.and_allOnes

/-- The operand of a data-processing word with the bits that tell its three forms apart; bit 7 is clear in the third (R105). -/
theorem encodeOperand2_operand2At {w : Word} (h : w.getLsbD 25 = false → w.getLsbD 4 = true → w.getLsbD 7 = false) :
    encodeOperand2 (operand2At w) = w &&& 0x02000FFF#32 := by
  unfold operand2At
  cases h25 : w.getLsbD 25 with
  | true =>
    have hbit : w &&& 0x02000000#32 = 0x02000000#32 := mask_of_bit h25
    rw [if_pos rfl, encodeOperand2, ← hbit, putField_extract, putField_extract, ← BitVec.and_or_distrib_left,
      ← BitVec.and_or_distrib_left]
    rfl
  | false =>
    rw [if_neg Bool.false_ne_true]
    have hclear : w &&& 0x02000000#32 = 0#32 := mask_of_bit h25
    cases h4 : w.getLsbD 4 with
    | true =>
      have hbits : w &&& 0x02000090#32 = 0x10#32 := mask_or hclear (mask_or (mask_of_bit h4) (mask_of_bit (h h25 h4)))
      simp only [if_true, encodeOperand2, ← hbits, ShiftType.toBits_ofBits, putField_extract, putReg_regAt,
        ← BitVec.and_or_distrib_left]
      rfl
    | false =>
      have hbits : w &&& 0x02000010#32 = 0#32 := mask_or hclear (mask_of_bit h4)
      simp only [Bool.false_eq_true, if_false, encodeOperand2, ShiftType.toBits_ofBits, putField_extract, putReg_regAt,
        ← BitVec.and_or_distrib_left]
      rw [← BitVec.zero_or (x := w &&& _), ← hbits, ← BitVec.and_or_distrib_left]
      rfl

theorem encodeDataProc_fields {w : Word} (h : w &&& 0x0C000000#32 = 0#32)
    (h7 : w.getLsbD 25 = false → w.getLsbD 4 = true → w.getLsbD 7 = false) :
    encodeDataProc (AluOp.ofBits (w.extractLsb' 21 4)) (condAt w) (w.getLsbD 20) (regAt w 16) (regAt w 12) (operand2At w) = w := by
  simp only [encodeDataProc, encodeOperand2_operand2At h7, AluOp.toBits_ofBits, putField_extract, putBit_getLsbD, putCond_condAt,
    putReg_regAt, ← BitVec.and_or_distrib_left]
  rw [← BitVec.zero_or (x := w &&& _), ← h, ← BitVec.and_or_distrib_left]
  exact BitVec.and_allOnes

theorem encodeLow2_fields {h base : Half} (hb : h &&& 0xFFC0#16 = base) : encodeLow2 base (lowAt h 3) (lowAt h 0) = h := by
  simp only [encodeLow2, ← hb, putLow_lowAt, ← BitVec.and_or_distrib_left]
  exact BitVec.and_allOnes

theorem encodeLow3_fields {h base : Half} (hb : h &&& 0xFE00#16 = base) :
    encodeLow3 base (lowAt h 6) (lowAt h 3) (lowAt h 0) = h := by
  simp only [encodeLow3, ← hb, putLow_lowAt, ← BitVec.and_or_distrib_left]
  exact BitVec.and_allOnes

theorem encodeOff5_fields {h base : Half} (hb : h &&& 0xF800#16 = base) :
    encodeOff5 base (h.extractLsb' 6 5) (lowAt h 3) (lowAt h 0) = h := by
  simp only [encodeOff5, ← hb, putField_extract, putLow_lowAt, ← BitVec.and_or_distrib_left]
  exact BitVec.and_allOnes

theorem encodeImm8_fields {h base : Half} (hb : h &&& 0xF800#16 = base) :
    encodeImm8 base (lowAt h 8) (h.extractLsb' 0 8) = h := by
  simp only [encodeImm8, ← hb, putField_extract, putLow_lowAt, ← BitVec.and_or_distrib_left]
  exact BitVec.and_allOnes

/-- The shapes of formats 13, 14 and 16 to 19: fixed bits above one field. -/
theorem or_putField_extract {n k : Nat} {w base : BitVec n} (hb : w &&& ~~~ putField n 0 (BitVec.allOnes k) = base) :
    base ||| putField n 0 (w.extractLsb' 0 k) = w := by
  rw [← hb, putField_extract, ← BitVec.and_or_distrib_left, BitVec.or_comm, BitVec.or_not_self, BitVec.and_allOnes]


/-! ### Wide words: encoding what the decoder found (R103) -/

theorem encode_decodeMultiply {w : Word} (hrow : w &&& 0x0E0000F0#32 = 0x90#32)
    (h : w.extractLsb' 22 3 = 0b000#3 ∨ w.extractLsb' 23 2 = 0b01#2) : encode (decodeMultiply w) = .wide w := by
  unfold decodeMultiply
  by_cases h23 : w.extractLsb' 23 2 = 0b00#2
  · have h22 : w.extractLsb' 22 3 = 0b000#3 := h.resolve_right (by simp [h23])
    rw [if_pos h23]
    cases h21 : w.getLsbD 21
    all_goals
      have hfixed := mask_or hrow (mask_or (mask_of_field h22) (mask_of_bit h21))
      exact congrArg CodeWord.wide (encodeMultiply_fields hfixed)
  · have h01 : w.extractLsb' 23 2 = 0b01#2 :=
      h.resolve_left fun e => h23 ((extract_eq_append_bit_iff w 22 0b00#2 false).1 e).1
    rw [if_neg h23]
    cases h22 : w.getLsbD 22 <;> cases h21 : w.getLsbD 21
    all_goals
      have hfixed := mask_or hrow (mask_or (mask_of_field h01) (mask_or (mask_of_bit h22) (mask_of_bit h21)))
      exact congrArg CodeWord.wide (encodeMultiply_fields hfixed)

/-- The swaps have the shape of a multiply with two more fields fixed (R108). -/
theorem encodeSwap_fields {w base : Word} (h : w &&& 0x0FE000F0#32 = base ||| 0x90#32) (h20 : w.getLsbD 20 = false)
    (h8 : w.extractLsb' 8 4 = 0b0000#4) :
    encodeMultiply base (condAt w) false (regAt w 16) (regAt w 12) 0 (regAt w 0) = w := by
  have hr8 : regAt w 8 = 0 := congrArg BitVec.toFin h8
  rw [← h20, ← hr8, encodeMultiply_fields h]

theorem encode_decodeHalfword {w : Word} (hrow : w &&& 0x0E000090#32 = 0x90#32) :
    encode (decodeHalfword w) = .wide w := by
  unfold decodeHalfword
  cases h22 : w.getLsbD 22
  case true =>
    rcases bitVec2_cases (w.extractLsb' 5 2) with hsh | hsh | hsh | hsh <;> cases h20 : w.getLsbD 20 <;>
      simp only [hsh, reduceIte, Bool.false_eq_true, BitVec.reduceEq]
    case inl.false | inl.true | inr.inr.inl.false | inr.inr.inr.false => rfl
    all_goals
      have hfixed := mask_or hrow (mask_or (mask_of_bit h22) (mask_or (mask_of_bit h20) (mask_of_field hsh)))
      exact congrArg CodeWord.wide (encodeHalfImm_fields hfixed)
  case false =>
    by_cases hoff : w.extractLsb' 8 4 = 0b0000#4
    case neg => simp only [hoff, reduceIte, Bool.false_eq_true]; rfl
    rcases bitVec2_cases (w.extractLsb' 5 2) with hsh | hsh | hsh | hsh <;> cases h20 : w.getLsbD 20 <;>
      simp only [hsh, hoff, reduceIte, Bool.false_eq_true, BitVec.reduceEq]
    case inl.false | inl.true | inr.inr.inl.false | inr.inr.inr.false => rfl
    all_goals
      have hfixed := mask_or hrow (mask_or (mask_of_bit h22) (mask_or (mask_of_bit h20)
        (mask_or (mask_of_field hsh) (mask_of_field hoff))))
      exact congrArg CodeWord.wide (encodeHalfReg_fields hfixed)

theorem encode_dataProc (op : AluOp) (c : Cond) (s : Bool) (rn rd : Reg) (o : Operand2) :
    encode (Instr.dataProc op c s rn rd o) = .wide (encodeDataProc op c s rn rd o) := by
  cases o <;> cases op <;> rfl

theorem encode_decodeSingle {w : Word} (hrow : w &&& 0x0C000000#32 = 0x04000000#32) :
    encode (decodeSingle w) = .wide w := by
  unfold decodeSingle
  cases h25 : w.getLsbD 25
  case true =>
    cases h4 : w.getLsbD 4
    case true => rfl
    cases h20 : w.getLsbD 20 <;> cases h22 : w.getLsbD 22
    all_goals
      have hfixed := mask_or hrow (mask_or (mask_of_bit h25) (mask_or (mask_of_bit h4)
        (mask_or (mask_of_bit h20) (mask_of_bit h22))))
      exact congrArg CodeWord.wide (encodeSingleReg_fields hfixed)
  case false =>
    cases h20 : w.getLsbD 20 <;> cases h22 : w.getLsbD 22
    all_goals
      have hfixed := mask_or hrow (mask_or (mask_of_bit h25) (mask_or (mask_of_bit h20) (mask_of_bit h22)))
      exact congrArg CodeWord.wide (encodeSingleImm_fields hfixed)

/-- `w[27:25] = 000` with `w[7:4] = 1001`, as one test. -/
theorem mask_of_isMultiplySpace {w : Word} (h : isMultiplySpace w) : w &&& 0x0E0000F0#32 = 0x90#32 := by
  obtain ⟨hspace, h7, hsh, h4⟩ := h
  exact mask_or (mask_of_field hspace) (mask_or (mask_of_bit h7) (mask_or (mask_of_field hsh) (mask_of_bit h4)))

/-- The branch-exchange fixes every bit but those of its condition and its register (R109). -/
theorem encodeBx_fields {w : Word} (h : isBranchExchange w) : 0x012FFF10#32 ||| putCond (condAt w) ||| putReg 0 (regAt w 0) = w := by
  obtain ⟨hspace, h21, h20, h16, h12, h8, h7, hsh, h4⟩ := h
  have hfixed : w &&& 0x0FFFFFF0#32 = 0x012FFF10#32 :=
    mask_or (mask_of_field hspace) (mask_or (mask_of_field h21) (mask_or (mask_of_bit h20) (mask_or (mask_of_field h16)
      (mask_or (mask_of_field h12) (mask_or (mask_of_field h8) (mask_or (mask_of_bit h7) (mask_or (mask_of_field hsh)
        (mask_of_bit h4))))))))
  rw [← hfixed, putCond_condAt, putReg_regAt, ← BitVec.and_or_distrib_left, ← BitVec.and_or_distrib_left]
  exact BitVec.and_allOnes

/-- SWI and the branches: a field of 24 bits below the condition and the fixed bits (R110, R114). -/
theorem encodeOffset24_fields {w base : Word} (h : w &&& 0x0F000000#32 = base) :
    base ||| putCond (condAt w) ||| putField 32 0 (w.extractLsb' 0 24) = w := by
  rw [← h, putCond_condAt, putField_extract, ← BitVec.and_or_distrib_left, ← BitVec.and_or_distrib_left]
  exact BitVec.and_allOnes

theorem encode_decodeWide (w : Word) : encode (decodeWide w) = .wide w := by
  unfold decodeWide
  split
  case isTrue h => exact congrArg CodeWord.wide (encodeOffset24_fields (mask_or (mask_of_field h.1) (mask_of_bit h.2)))
  split
  case isTrue hbx => exact congrArg CodeWord.wide (encodeBx_fields hbx)
  split
  case isTrue hspace =>
    cases h24 : w.getLsbD 24 <;>
      exact congrArg CodeWord.wide (encodeOffset24_fields (mask_or (mask_of_field hspace) (mask_of_bit h24)))
  split
  case isTrue h => exact encode_decodeMultiply (mask_of_isMultiplySpace h.1) h.2
  split
  case isTrue h =>
    obtain ⟨hmul, h23, h20, h8⟩ := h
    obtain ⟨h21, h20'⟩ := (extract_eq_append_bit_iff w 20 0b0#1 false).1 h20
    cases h22 : w.getLsbD 22
    all_goals
      have hfixed := mask_or (mask_of_isMultiplySpace hmul)
        (mask_or (mask_of_field h23) (mask_or (mask_of_bit h22) (mask_of_field h21)))
      exact congrArg CodeWord.wide (encodeSwap_fields hfixed h20' h8)
  split
  case isTrue h =>
    exact encode_decodeHalfword (mask_or (mask_of_field h.1) (mask_or (mask_of_bit h.2.1) (mask_of_bit h.2.2)))
  case isFalse hhalf =>
  split
  case isTrue hrow =>
    rw [decodeDataProc, encode_dataProc, encodeDataProc_fields (mask_of_field hrow)]
    intro h25 h4
    have hspace : w.extractLsb' 25 3 = 0b000#3 := (extract_eq_append_bit_iff w 25 0b00#2 false).2 ⟨hrow, h25⟩
    exact Bool.eq_false_iff.2 fun h7 => hhalf ⟨hspace, h7, h4⟩
  split
  case isTrue hrow => exact encode_decodeSingle (mask_of_field hrow)
  split
  case isTrue hspace =>
    cases h20 : w.getLsbD 20 <;>
      exact congrArg CodeWord.wide (encodeBlock_fields (mask_or (mask_of_field hspace) (mask_of_bit h20)))
  rfl

/-! ### Halfwords: encoding what the decoder found (R119) -/

/-- The additions of a 3-bit immediate have it where the others of format 2 have a register (R120). -/
theorem encodeImm3_fields {h base : Half} (hb : h &&& 0xFE00#16 = base) :
    base ||| putField 16 6 (h.extractLsb' 6 3) ||| putLow 3 (lowAt h 3) ||| putLow 0 (lowAt h 0) = h :=
  encodeLow3_fields hb

theorem encode_decodeFormat12 {h : Half} (hrow : h &&& 0xE000#16 = 0#16) : encode (decodeFormat12 h) = .narrow h := by
  unfold decodeFormat12
  rcases bitVec2_cases (h.extractLsb' 11 2) with hop | hop | hop | hop <;> rw [hop]
  case inr.inr.inr =>
    have hrow' := mask_or hrow (mask_of_field hop)
    rcases bitVec2_cases (h.extractLsb' 9 2) with hsub | hsub | hsub | hsub <;> rw [hsub]
    case inl | inr.inl =>
      exact congrArg CodeWord.narrow (encodeLow3_fields (mask_or hrow' (mask_of_field hsub)))
    all_goals
      have hfixed := mask_or hrow' (mask_of_field hsub)
      exact congrArg CodeWord.narrow (encodeImm3_fields hfixed)
  all_goals exact congrArg CodeWord.narrow (encodeOff5_fields (mask_or hrow (mask_of_field hop)))

theorem encode_decodeFormat3 {h : Half} (hrow : h &&& 0xE000#16 = 0x2000#16) : encode (decodeFormat3 h) = .narrow h := by
  unfold decodeFormat3
  rcases bitVec2_cases (h.extractLsb' 11 2) with hop | hop | hop | hop <;> rw [hop] <;>
    exact congrArg CodeWord.narrow (encodeImm8_fields (mask_or hrow (mask_of_field hop)))

theorem encode_decodeFormat9 {h : Half} (hrow : h &&& 0xE000#16 = 0x6000#16) : encode (decodeFormat9 h) = .narrow h := by
  unfold decodeFormat9
  rcases bitVec2_cases (h.extractLsb' 11 2) with hop | hop | hop | hop <;> rw [hop] <;>
    exact congrArg CodeWord.narrow (encodeOff5_fields (mask_or hrow (mask_of_field hop)))

theorem bitVec3_cases (x : BitVec 3) :
    x = 0#3 ∨ x = 1#3 ∨ x = 2#3 ∨ x = 3#3 ∨ x = 4#3 ∨ x = 5#3 ∨ x = 6#3 ∨ x = 7#3 := by
  revert x; decide

theorem bitVec4_cases (x : BitVec 4) :
    x = 0#4 ∨ x = 1#4 ∨ x = 2#4 ∨ x = 3#4 ∨ x = 4#4 ∨ x = 5#4 ∨ x = 6#4 ∨ x = 7#4 ∨
      x = 8#4 ∨ x = 9#4 ∨ x = 10#4 ∨ x = 11#4 ∨ x = 12#4 ∨ x = 13#4 ∨ x = 14#4 ∨ x = 15#4 := by
  revert x; decide

theorem encode_decodeFormat4 {h : Half} (hrow : h &&& 0xFC00#16 = 0x4000#16) : encode (decodeFormat4 h) = .narrow h := by
  unfold decodeFormat4
  rcases bitVec4_cases (h.extractLsb' 6 4) with
    hop | hop | hop | hop | hop | hop | hop | hop | hop | hop | hop | hop | hop | hop | hop | hop <;>
    rw [hop] <;> exact congrArg CodeWord.narrow (encodeLow2_fields (mask_or hrow (mask_of_field hop)))

theorem encode_decodeFormat78 {h : Half} (hrow : h &&& 0xF000#16 = 0x5000#16) : encode (decodeFormat78 h) = .narrow h := by
  unfold decodeFormat78
  rcases bitVec3_cases (h.extractLsb' 9 3) with hop | hop | hop | hop | hop | hop | hop | hop <;>
    rw [hop] <;> exact congrArg CodeWord.narrow (encodeLow3_fields (mask_or hrow (mask_of_field hop)))

/-- Format 5 with a source of four bits (R123). -/
theorem encodeHigh_fields {h base : Half} (hb : h &&& 0xFF80#16 = base) :
    base ||| putField 16 3 (h.extractLsb' 3 4) ||| putLow 0 (lowAt h 0) = h := by
  rw [← hb, putField_extract, putLow_lowAt, ← BitVec.and_or_distrib_left, ← BitVec.and_or_distrib_left]
  exact BitVec.and_allOnes

theorem encodeBxNarrow_fields {h base : Half} (hb : h &&& 0xFF87#16 = base) : base ||| putField 16 3 (h.extractLsb' 3 4) = h := by
  rw [← hb, putField_extract, ← BitVec.and_or_distrib_left]
  exact BitVec.and_allOnes

theorem encode_decodeFormat5 {h : Half} (hrow : h &&& 0xFC00#16 = 0x4400#16) : encode (decodeFormat5 h) = .narrow h := by
  unfold decodeFormat5
  split
  case isTrue hop =>
    split
    case isTrue hbx =>
      have hfixed := mask_or hrow (mask_or (mask_of_field hop) (mask_or (mask_of_bit hbx.1) (mask_of_field hbx.2)))
      exact congrArg CodeWord.narrow (encodeBxNarrow_fields hfixed)
    case isFalse => rfl
  case isFalse hbx =>
    cases h7 : h.getLsbD 7
    case true =>
      rcases bitVec2_cases (h.extractLsb' 8 2) with hop | hop | hop | hop
      case inr.inr.inr => exact absurd hop hbx
      all_goals
        rw [hop]
        exact congrArg CodeWord.narrow (encodeHigh_fields (mask_or hrow (mask_or (mask_of_field hop) (mask_of_bit h7))))
    case false =>
      cases h6 : h.getLsbD 6
      case false => rfl
      rcases bitVec2_cases (h.extractLsb' 8 2) with hop | hop | hop | hop
      case inr.inr.inr => exact absurd hop hbx
      all_goals
        rw [hop]
        have hfixed := mask_or hrow (mask_or (mask_of_field hop) (mask_or (mask_of_bit h7) (mask_of_bit h6)))
        exact congrArg CodeWord.narrow (encodeLow2_fields hfixed)

theorem encode_decodeMisc {h : Half} (hrow : h &&& 0xF000#16 = 0xB000#16) : encode (decodeMisc h) = .narrow h := by
  unfold decodeMisc
  split
  case isTrue hop =>
    cases h7 : h.getLsbD 7 <;>
      exact congrArg CodeWord.narrow (or_putField_extract (mask_or hrow (mask_or (mask_of_field hop) (mask_of_bit h7))))
  split
  case isFalse => rfl
  case isTrue hop =>
    have hstack := mask_or hrow (mask_of_field hop)
    cases h11 : h.getLsbD 11
    case true =>
      cases h8 : h.getLsbD 8 <;>
        exact congrArg CodeWord.narrow (or_putField_extract (mask_or hstack (mask_or (mask_of_bit h11) (mask_of_bit h8))))
    case false =>
      have hfixed : h &&& 0xFE00#16 = 0xB400#16 := mask_or hstack (mask_of_bit h11)
      refine congrArg CodeWord.narrow (or_putField_extract ?_)
      rw [putBit_getLsbD, ← hfixed, ← BitVec.and_or_distrib_left]
      rfl

theorem encode_decodeFormat1617 {h : Half} (hrow : h &&& 0xF000#16 = 0xD000#16) :
    encode (decodeFormat1617 h) = .narrow h := by
  unfold decodeFormat1617
  split
  case isTrue hop => exact congrArg CodeWord.narrow (or_putField_extract (mask_or hrow (mask_of_field hop)))
  split
  case isTrue => rfl
  case isFalse =>
    refine congrArg CodeWord.narrow (or_putField_extract ?_)
    rw [Cond.toBits_ofBits, putField_extract, ← hrow, ← BitVec.and_or_distrib_left]
    rfl

theorem encode_decodeNarrow (h : Half) : encode (decodeNarrow h) = .narrow h := by
  have hbit {b : Bool} {op : BitVec 4} (hop : h.extractLsb' 12 4 = op) (h11 : h.getLsbD 11 = b) :=
    mask_or (mask_of_field hop) (mask_of_bit h11)
  unfold decodeNarrow
  rcases bitVec4_cases (h.extractLsb' 12 4) with hop | hop | hop | hop | hop | hop | hop | hop | hop | hop | hop | hop |
    hop | hop | hop | hop <;> rw [hop]
  · exact encode_decodeFormat12 (mask_of_field ((extract_eq_append_bit_iff h 12 0b000#3 false).1 hop).1)
  · exact encode_decodeFormat12 (mask_of_field ((extract_eq_append_bit_iff h 12 0b000#3 true).1 hop).1)
  · exact encode_decodeFormat3 (mask_of_field ((extract_eq_append_bit_iff h 12 0b001#3 false).1 hop).1)
  · exact encode_decodeFormat3 (mask_of_field ((extract_eq_append_bit_iff h 12 0b001#3 true).1 hop).1)
  · cases h11 : h.getLsbD 11
    case true => exact congrArg CodeWord.narrow (encodeImm8_fields (hbit hop h11))
    cases h10 : h.getLsbD 10
    · exact encode_decodeFormat4 (mask_or (hbit hop h11) (mask_of_bit h10))
    · exact encode_decodeFormat5 (mask_or (hbit hop h11) (mask_of_bit h10))
  · exact encode_decodeFormat78 (mask_of_field hop)
  · exact encode_decodeFormat9 (mask_of_field ((extract_eq_append_bit_iff h 12 0b011#3 false).1 hop).1)
  · exact encode_decodeFormat9 (mask_of_field ((extract_eq_append_bit_iff h 12 0b011#3 true).1 hop).1)
  · cases h11 : h.getLsbD 11 <;> exact congrArg CodeWord.narrow (encodeOff5_fields (hbit hop h11))
  · cases h11 : h.getLsbD 11 <;> exact congrArg CodeWord.narrow (encodeImm8_fields (hbit hop h11))
  · cases h11 : h.getLsbD 11 <;> exact congrArg CodeWord.narrow (encodeImm8_fields (hbit hop h11))
  · exact encode_decodeMisc (mask_of_field hop)
  · cases h11 : h.getLsbD 11 <;> exact congrArg CodeWord.narrow (encodeImm8_fields (hbit hop h11))
  · exact encode_decodeFormat1617 (mask_of_field hop)
  · cases h11 : h.getLsbD 11
    · exact congrArg CodeWord.narrow (or_putField_extract (hbit hop h11))
    · rfl
  · cases h11 : h.getLsbD 11 <;> exact congrArg CodeWord.narrow (or_putField_extract (hbit hop h11))

theorem encode_decode (c : CodeWord) : encode (decode c) = c := by
  cases c with
  | wide w => exact encode_decodeWide w
  | narrow h => exact encode_decodeNarrow h
/-! ### The gaps: words that are not recognized -/

theorem decodeWide_of_inCoprocessorSpace {w : Word} (h : inCoprocessorSpace w = true) :
    decodeWide w = .nrCoprocessorSpace w := by
  have happend := space_eq_append w
  rcases (inCoprocessorSpace_iff w).1 h with h | h
  · obtain ⟨h26, -⟩ := (extract_eq_append_iff w 25 0b11#2 0b0#1).1 h
    simp [decodeWide, isBranchExchange, isMultiplySpace, h, show w.extractLsb' 26 2 = _ from h26]
  · obtain ⟨hspace, h24⟩ := (extract_eq_append_bit_iff w 24 0b111#3 false).1 h
    obtain ⟨h26, -⟩ := (extract_eq_append_iff w 25 0b11#2 0b1#1).1 hspace
    simp [decodeWide, isBranchExchange, isMultiplySpace, show w.extractLsb' 25 3 = _ from hspace, h24,
      show w.extractLsb' 26 2 = _ from h26, -BitVec.getLsbD_eq_getElem]

theorem decodeWide_of_inUndefinedSpace {w : Word} (h : inUndefinedSpace w = true) :
    decodeWide w = .nrUndefinedSpace w := by
  obtain ⟨hspace, h4⟩ := (inUndefinedSpace_iff w).1 h
  obtain ⟨h26, h25⟩ := (extract_eq_append_bit_iff w 25 0b01#2 true).1 hspace
  simp [decodeWide, isBranchExchange, isMultiplySpace, show w.extractLsb' 25 3 = _ from hspace,
    show w.extractLsb' 26 2 = _ from h26, decodeSingle, h25, h4, -BitVec.getLsbD_eq_getElem]

theorem decodeHalfword_of_category_eq_none {w : Word} :
    (decodeHalfword w).category = none → decodeHalfword w = .nrHalfwordSpace w := by
  unfold decodeHalfword
  repeat' split
  all_goals rintro ⟨⟩
  all_goals rfl

/-- The multiplies and the swaps are recognized, so a word of the gap reaches row 7. -/
theorem decodeWide_of_inHalfwordGap {w : Word} (h : inHalfwordGap w = true) : decodeWide w = .nrHalfwordSpace w := by
  have hnone := (category_decodeWide_eq_none_iff w).2 (.inr (.inr h))
  have hrow : w.extractLsb' 25 3 = 0b000#3 ∧ w.getLsbD 7 = true ∧ w.getLsbD 4 = true := by
    simp only [inHalfwordGap, Bool.and_eq_true, beq_iff_eq] at h
    obtain ⟨⟨⟨hspace, h7⟩, h4⟩, -⟩ := h
    exact ⟨hspace, h7, h4⟩
  obtain ⟨hswi, hb⟩ := not_rows_1_3_of_space0 hrow.1
  have hbx : ¬ isBranchExchange w := fun ⟨_, _, _, _, _, _, h7, _⟩ => Bool.noConfusion (hrow.2.1.symm.trans h7)
  rw [decodeWide, if_neg hswi, if_neg hbx, if_neg hb] at hnone ⊢
  split at hnone
  · exact absurd hnone (category_decodeMultiply_ne_none w)
  rename_i hmul
  rw [if_neg hmul]
  split at hnone
  · split at hnone <;> cases hnone
  rename_i hswap
  rw [if_neg hswap, if_pos hrow]
  exact decodeHalfword_of_category_eq_none hnone

theorem decodeNarrow_of_inNarrowGap {h : Half} (hgap : inNarrowGap h = true) : decodeNarrow h = .nrNarrow h := by
  simp only [inNarrowGap, Bool.or_eq_true, Bool.and_eq_true, beq_iff_eq, Bool.not_eq_true', beq_eq_false_iff_ne] at hgap
  rcases hgap with ⟨hop, h11⟩ | ⟨⟨hop, h8⟩, h9⟩
  · simp only [decodeNarrow, hop, h11]; rfl
  · simp only [decodeNarrow, hop]
    exact (if_neg h8).trans (if_neg h9)

theorem decodeNarrow_of_inCond14Gap {h : Half} (hgap : inCond14Gap h = true) : decodeNarrow h = .nrCond14 h := by
  simp only [inCond14Gap, Bool.and_eq_true, beq_iff_eq] at hgap
  simp only [decodeNarrow, hgap.1]
  simp [decodeFormat1617, hgap.2]

theorem decodeNarrow_of_inHighRegisterGap {h : Half} (hgap : inHighRegisterGap h = true) :
    decodeNarrow h = .nrHighRegisterSpace h := by
  simp only [inHighRegisterGap, Bool.and_eq_true, beq_iff_eq, Bool.not_eq_true'] at hgap
  obtain ⟨⟨⟨hop, h11⟩, h10⟩, hgap⟩ := hgap
  have hrow : decodeNarrow h = decodeFormat5 h := by simp only [decodeNarrow, hop, h11, h10]; rfl
  rw [hrow, decodeFormat5]
  split at hgap
  case isTrue hbx =>
    rw [if_pos hbx, if_neg]
    rintro ⟨h7, h0⟩
    simp [h7, h0, -BitVec.getLsbD_eq_getElem] at hgap
  case isFalse hbx =>
    simp only [Bool.and_eq_true, Bool.not_eq_true'] at hgap
    rw [if_neg hbx, hgap.1, hgap.2]
    rfl


/-! ### Decoding what was encoded: each field is read off the word -/

@[simp] theorem toFin_ofFin_reg (r : Reg) : (BitVec.ofFin r : BitVec 4).toFin = r := rfl
@[simp] theorem toFin_ofFin_lowReg (r : LowReg) : (BitVec.ofFin r : BitVec 3).toFin = r := rfl

/-- A clear bit adds nothing to a word. -/
@[simp] theorem putBit_false (n lo : Nat) : putBit n lo false = 0 := by simp [putBit, putField]


/-- A field shows nothing of a field or a bit that lies apart from it. -/
@[simp] theorem extract_putField_apart {n k : Nat} (a w lo : Nat) (x : BitVec k) (h : a + w ≤ lo ∨ lo + k ≤ a) :
    (putField n lo x).extractLsb' a w = 0 :=
  h.elim (extract_putField_below a w lo x) (extract_putField_above a w lo x)

@[simp] theorem extract_putBit_apart {n : Nat} (a w lo : Nat) (b : Bool) (h : a + w ≤ lo ∨ lo + 1 ≤ a) :
    (putBit n lo b).extractLsb' a w = 0 :=
  extract_putField_apart a w lo _ h

theorem AluOp.toBits_eq_teq {op : AluOp} : op.toBits = 0b1001#4 ↔ op = .teq := by cases op <;> decide

theorem ShiftType.toBits_eq_lsl {ty : ShiftType} : ty.toBits = 0b00#2 ↔ ty = .lsl := by cases ty <;> decide

theorem ofFin_eq_15 {r : Reg} : (BitVec.ofFin r : BitVec 4) = 0b1111#4 ↔ r = 15 :=
  ⟨congrArg BitVec.toFin, fun h => by rw [h]; rfl⟩

/-- The one compare that shares its word with the branch-exchange is the one that is not well-formed (R197). -/
theorem isBranchExchange_encodeDataProc_iff (op : AluOp) (c : Cond) (s : Bool) (rn rd : Reg) (o : Operand2) :
    isBranchExchange (encodeDataProc op c s rn rd o) ↔ (Instr.dataProc op c s rn rd o).wellFormed = false := by
  cases o with
  | imm rotate imm8 =>
    refine iff_of_false (fun h => ?_) (by cases op <;> exact Bool.noConfusion)
    obtain ⟨hspace, -⟩ := h
    simp [encodeDataProc, encodeOperand2, putCond, putReg, extract_or] at hspace
  | regImm amount ty rm =>
    refine iff_of_false (fun h => ?_) (by cases op <;> exact Bool.noConfusion)
    obtain ⟨-, -, -, -, -, -, -, -, h4⟩ := h
    simp [encodeDataProc, encodeOperand2, putCond, putReg, get_putField, get_putBit] at h4
  | regReg rs ty rm =>
    have hfields : isBranchExchange (encodeDataProc op c s rn rd (.regReg rs ty rm)) ↔
        op = .teq ∧ s = false ∧ rn = 15 ∧ rd = 15 ∧ rs = 15 ∧ ty = .lsl := by
      simp [isBranchExchange, encodeDataProc, encodeOperand2, putCond, putReg, extract_or, extract_putField_same,
        get_putField, get_putBit, AluOp.toBits_eq_teq, ShiftType.toBits_eq_lsl, ofFin_eq_15]
    rw [hfields]
    cases op <;> simp [Instr.dataProc, Instr.wellFormed, and_assoc]

theorem decodeWide_encodeDataProc {op : AluOp} {c : Cond} {s : Bool} {rn rd : Reg} {o : Operand2}
    (hwf : (Instr.dataProc op c s rn rd o).wellFormed = true) :
    decodeWide (encodeDataProc op c s rn rd o) = Instr.dataProc op c s rn rd o := by
  have hbx : ¬ isBranchExchange (encodeDataProc op c s rn rd o) := by
    rw [isBranchExchange_encodeDataProc_iff, hwf]; exact Bool.noConfusion
  have hrow : (encodeDataProc op c s rn rd o).extractLsb' 26 2 = 0b00#2 := by
    cases o <;> simp [encodeDataProc, encodeOperand2, putCond, putReg, extract_or]
  have hswi : ¬ ((encodeDataProc op c s rn rd o).extractLsb' 25 3 = 0b111#3 ∧
      (encodeDataProc op c s rn rd o).getLsbD 24 = true) := by
    cases o <;> simp [encodeDataProc, encodeOperand2, putCond, putReg, extract_or]
  rw [decodeWide, if_neg hswi, if_neg hbx]
  cases o <;>
    simp [isMultiplySpace, decodeDataProc, operand2At, encodeDataProc, encodeOperand2, putCond, putReg, condAt, regAt,
      extract_or, extract_putField_same, get_putField, get_putBit, -BitVec.toFin_or]

theorem decode_encode_of_branch {i : Instr}
    (h : i.category ∈ [some .softwareInterrupt, some .branchExchange, some .branch]) : decode (encode i) = i := by
  cases i with
  | swi | b | bl | bx =>
    simp [encode, decode, decodeWide, isBranchExchange, putCond, putReg, condAt, regAt, extract_or, extract_putField_same,
      get_putField, -BitVec.toFin_or]
  | _ => simp [Instr.category] at h

theorem decode_encode_of_multiply {i : Instr}
    (h : i.category ∈ [some .multiply, some .multiplyLong, some .swap]) : decode (encode i) = i := by
  cases i with
  | mul | mla | umull | umlal | smull | smlal | swp | swpb =>
    simp [encode, decode, decodeWide, decodeMultiply, encodeMultiply, isBranchExchange, isMultiplySpace, putCond, putReg,
      condAt, regAt, extract_or, extract_putField_same, get_putField, get_putBit, -BitVec.toFin_or]
  | _ => simp [Instr.category] at h

theorem decode_encode_of_halfwordTransfer {i : Instr} (h : i.category = some .halfwordTransfer) : decode (encode i) = i := by
  cases i with
  | ldrhImm | ldrsbImm | ldrshImm | strhImm | ldrhReg | ldrsbReg | ldrshReg | strhReg =>
    simp [encode, decode, decodeWide, decodeHalfword, encodeHalfImm, encodeHalfReg, isBranchExchange, isMultiplySpace, putCond,
      putIndex, putReg, condAt, regAt, extract_or, extract_putField_same, get_putField, get_putBit, -BitVec.toFin_or]
  | _ => cases h

theorem decode_encode_of_singleTransfer {i : Instr} (h : i.category = some .singleTransfer) : decode (encode i) = i := by
  cases i with
  | ldrImm | ldrbImm | strImm | strbImm | ldrReg | ldrbReg | strReg | strbReg =>
    simp [encode, decode, decodeWide, decodeSingle, encodeSingleImm, encodeSingleReg, isBranchExchange, isMultiplySpace, putCond,
      putIndex, putReg, condAt, regAt, extract_or, extract_putField_same, get_putField, get_putBit, -BitVec.toFin_or]
  | _ => cases h

theorem decode_encode_of_blockTransfer {i : Instr} (h : i.category = some .blockTransfer) : decode (encode i) = i := by
  cases i with
  | ldm | stm =>
    simp [encode, decode, decodeWide, encodeBlock, isBranchExchange, isMultiplySpace, putCond, putIndex, putReg, condAt, regAt,
      extract_or, extract_putField_same, get_putField, get_putBit, -BitVec.toFin_or]
  | _ => cases h

/-- Formats 1 to 4, by the category of the format. -/
theorem decode_encode_of_format1to4 {i : Instr}
    (h : i.category ∈ [some .narrow1, some .narrow2, some .narrow3, some .narrow4]) : decode (encode i) = i := by
  cases i with
  | tAddReg | tSubReg | tAddImm3 | tSubImm3 | tLslImm | tLsrImm | tAsrImm =>
    simp [encode, decode, decodeNarrow, decodeFormat12, encodeOff5, encodeLow3, putLow, lowAt, extract_or,
      extract_putField_same, -BitVec.toFin_or]
  | tMovImm | tCmpImm | tAddImm8 | tSubImm8 =>
    simp [encode, decode, decodeNarrow, decodeFormat3, encodeImm8, putLow, lowAt, extract_or, extract_putField_same,
      -BitVec.toFin_or]
  | tAnd | tEor | tLsl | tLsr | tAsr | tAdc | tSbc | tRor | tTst | tNeg | tCmp | tCmn | tOrr | tMul | tBic | tMvn =>
    simp [encode, decode, decodeNarrow, decodeFormat4, encodeLow2, putLow, lowAt, extract_or, extract_putField_same,
      get_putField, -BitVec.toFin_or]
  | _ => simp [Instr.category] at h

/-- Formats 5 to 11, with the additions of format 12. -/
theorem decode_encode_of_format5to12 {i : Instr}
    (h : i.category ∈ [some .narrow5, some .narrow6, some .narrow7, some .narrow8, some .narrow9, some .narrow10,
      some .narrow11, some .narrow12]) : decode (encode i) = i := by
  cases i with
  | tAddHiH1 | tAddHiH2 | tCmpHiH1 | tCmpHiH2 | tMovHiH1 | tMovHiH2 | tBx =>
    simp [encode, decode, decodeNarrow, decodeFormat5, encodeLow2, putLow, lowAt, extract_or, extract_putField_same,
      get_putField, -BitVec.toFin_or]
  | tStrReg | tStrhReg | tStrbReg | tLdsbReg | tLdrReg | tLdrhReg | tLdrbReg | tLdshReg =>
    simp [encode, decode, decodeNarrow, decodeFormat78, encodeLow3, putLow, lowAt, extract_or, extract_putField_same,
      -BitVec.toFin_or]
  | tStrImm | tLdrImm | tStrbImm | tLdrbImm | tStrhImm | tLdrhImm =>
    simp [encode, decode, decodeNarrow, decodeFormat9, encodeOff5, putLow, lowAt, extract_or, extract_putField_same,
      get_putField, -BitVec.toFin_or]
  | tLdrPc | tStrSp | tLdrSp | tAddPc | tAddSp =>
    simp [encode, decode, decodeNarrow, encodeImm8, putLow, lowAt, extract_or, extract_putField_same, get_putField,
      -BitVec.toFin_or]
  | _ => simp [Instr.category] at h

/-- Formats 13 to 19, but for the conditional branch, which has no word for two conditions (R129). -/
theorem decode_encode_of_format13to19 {i : Instr}
    (h : i.category ∈ [some .narrow13, some .narrow14, some .narrow15, some .narrow17, some .narrow18, some .narrow19]) :
    decode (encode i) = i := by
  cases i with
  | tAddSpImm | tSubSpImm | tPush | tPop | tPopPc =>
    simp [encode, decode, decodeNarrow, decodeMisc, extract_or, extract_putField_same, get_putField, get_putBit]
  | tStmia | tLdmia =>
    simp [encode, decode, decodeNarrow, encodeImm8, putLow, lowAt, extract_or, extract_putField_same, get_putField,
      -BitVec.toFin_or]
  | tSwi => simp [encode, decode, decodeNarrow, decodeFormat1617, extract_or, extract_putField_same]
  | tB | tBlFirst | tBlSecond =>
    simp [encode, decode, decodeNarrow, extract_or, extract_putField_same, get_putField]
  | _ => simp [Instr.category] at h

theorem Cond.toBits_ne {c : Cond} (h : (c != .al && c != .nv) = true) : c.toBits ≠ 0b1111#4 ∧ c.toBits ≠ 0b1110#4 := by
  revert h; cases c <;> decide

/-- Settles O2: a gap word falls through to its own row, and every other instruction is read off the fields of its word, family by
family. -/
theorem decodeOfEncode : Obligations.DecodeOfEncode := by
  intro i hwf
  cases i with
  | nrHalfwordSpace w => exact decodeWide_of_inHalfwordGap hwf
  | nrUndefinedSpace w => exact decodeWide_of_inUndefinedSpace hwf
  | nrCoprocessorSpace w => exact decodeWide_of_inCoprocessorSpace hwf
  | nrHighRegisterSpace h => exact decodeNarrow_of_inHighRegisterGap hwf
  | nrCond14 h => exact decodeNarrow_of_inCond14Gap hwf
  | nrNarrow h => exact decodeNarrow_of_inNarrowGap hwf
  | swi | bx | b | bl => exact decode_encode_of_branch (by simp [Instr.category])
  | mul | mla | umull | umlal | smull | smlal | swp | swpb => exact decode_encode_of_multiply (by simp [Instr.category])
  | ldrhImm | ldrhReg | ldrsbImm | ldrsbReg | ldrshImm | ldrshReg | strhImm | strhReg =>
    exact decode_encode_of_halfwordTransfer rfl
  | ldrImm | ldrReg | ldrbImm | ldrbReg | strImm | strReg | strbImm | strbReg => exact decode_encode_of_singleTransfer rfl
  | ldm | stm => exact decode_encode_of_blockTransfer rfl
  | andImm | andRegImm | andRegReg | eorImm | eorRegImm | eorRegReg | subImm | subRegImm | subRegReg | rsbImm | rsbRegImm
  | rsbRegReg | addImm | addRegImm | addRegReg | adcImm | adcRegImm | adcRegReg | sbcImm | sbcRegImm | sbcRegReg | rscImm
  | rscRegImm | rscRegReg | tstImm | tstRegImm | tstRegReg | teqImm | teqRegImm | teqRegReg | cmpImm | cmpRegImm | cmpRegReg
  | cmnImm | cmnRegImm | cmnRegReg | orrImm | orrRegImm | orrRegReg | movImm | movRegImm | movRegReg | bicImm | bicRegImm
  | bicRegReg | mvnImm | mvnRegImm | mvnRegReg => exact decodeWide_encodeDataProc hwf
  | tBCond c x =>
    obtain ⟨h15, h14⟩ := Cond.toBits_ne hwf
    simp [encode, decode, decodeNarrow, decodeFormat1617, extract_or, extract_putField_same, h14, h15]
  | tAddReg | tSubReg | tAddImm3 | tSubImm3 | tLslImm | tLsrImm | tAsrImm | tMovImm | tCmpImm | tAddImm8 | tSubImm8
  | tAnd | tEor | tLsl | tLsr | tAsr | tAdc | tSbc | tRor | tTst | tNeg | tCmp | tCmn | tOrr | tMul | tBic | tMvn =>
    exact decode_encode_of_format1to4 (by simp [Instr.category])
  | tAddHiH1 | tAddHiH2 | tCmpHiH1 | tCmpHiH2 | tMovHiH1 | tMovHiH2 | tBx | tLdrPc | tStrhReg | tLdsbReg | tLdrhReg
  | tLdshReg | tStrReg | tStrbReg | tLdrReg | tLdrbReg | tStrImm | tLdrImm | tStrbImm | tLdrbImm | tStrhImm | tLdrhImm
  | tStrSp | tLdrSp | tAddPc | tAddSp =>
    exact decode_encode_of_format5to12 (by simp [Instr.category])
  | tAddSpImm | tSubSpImm | tPush | tPop | tPopPc | tStmia | tLdmia | tSwi | tB | tBlFirst | tBlSecond =>
    exact decode_encode_of_format13to19 (by simp [Instr.category])

/-! ### What the decoder finds is well-formed -/

/-- The word of the compare that is not well-formed decodes to the branch-exchange (R197). -/
theorem decodeWide_of_isBranchExchange {w : Word} (h : isBranchExchange w) : decodeWide w = .bx (condAt w) (regAt w 0) := by
  rw [decodeWide, if_neg (fun hswi => not_rows_1_3_of_space0 h.1 |>.1 hswi), if_pos h]

/-- A recognized instruction that the decoder gives back from its own word is well-formed: the compare and the conditional branches
that are not share their words with other instructions (R129, R197). -/
theorem wellFormed_of_decode_encode {i : Instr} (hcat : i.category ≠ none) (hback : decode (encode i) = i) :
    i.wellFormed = true := by
  cases i with
  | teqRegReg c s rn rd rs ty rm =>
    by_contra hwf
    have hbx := (isBranchExchange_encodeDataProc_iff .teq c s rn rd (.regReg rs ty rm)).2 (Bool.eq_false_iff.2 hwf)
    exact Instr.noConfusion ((decodeWide_of_isBranchExchange hbx).symm.trans hback)
  | tBCond c x =>
    by_contra hwf
    have hc : c = .al ∨ c = .nv := by
      by_contra hc
      exact hwf (by simpa [Instr.wellFormed, not_or] using hc)
    rcases hc with rfl | rfl <;>
      simp [encode, decode, decodeNarrow, decodeFormat1617, extract_or, extract_putField_same, Cond.toBits] at hback
  | nrHalfwordSpace | nrUndefinedSpace | nrCoprocessorSpace | nrHighRegisterSpace | nrCond14 | nrNarrow =>
    exact absurd rfl hcat
  | _ => rfl

theorem wellFormed_decode (c : CodeWord) : (decode c).wellFormed = true := by
  by_cases hcat : (decode c).category = none
  · cases c with
    | wide w =>
      rcases (category_decodeWide_eq_none_iff w).1 hcat with hgap | hgap | hgap
      · rw [decode, decodeWide_of_inCoprocessorSpace hgap]; exact hgap
      · rw [decode, decodeWide_of_inUndefinedSpace hgap]; exact hgap
      · rw [decode, decodeWide_of_inHalfwordGap hgap]; exact hgap
    | narrow h =>
      rcases (category_decodeNarrow_eq_none_iff h).1 hcat with hgap | hgap | hgap
      · rw [decode, decodeNarrow_of_inNarrowGap hgap]; exact hgap
      · rw [decode, decodeNarrow_of_inCond14Gap hgap]; exact hgap
      · rw [decode, decodeNarrow_of_inHighRegisterGap hgap]; exact hgap
  · exact wellFormed_of_decode_encode hcat (by rw [encode_decode])

/-- Settles O3: every row of the decoder keeps the fields that its tests leave open, so the encoder puts the same word together
again; and a recognized instruction comes back from that word, so it is well-formed. -/
theorem encodeOfDecode : Obligations.EncodeOfDecode := fun c => ⟨wellFormed_decode c, encode_decode c⟩

/-- Settles O1: both sides are closed, so the decoder is run on the words. -/
theorem decodeWords : Obligations.DecodeWords := by
  unfold Obligations.DecodeWords
  decide +kernel

end Sys2Proof
end

section
/-! PROOFS. What every step keeps (R21, R29, R34, R49, R67, R148, R33, R446, R461). An instruction first writes registers, flags and
memory and then ends in one of four ways: it advances, is redirected, returns from an exception or enters one. What the writes keep
is proved once for each operation, what the ends do once for each end; the statements about a step are read off from that. -/

namespace Sys2Proof.Machine

open Sys2Proof

/-! ### What the writes before the end of an instruction keep -/

/-- Memory stays canonical and changes in RAM only, and the parameters stay (R49, R67). -/
structure RamOnly (s u : State) : Prop where
  cfg : u.cfg = s.cfg
  canonical : s.memCanonical → u.memCanonical
  outside : ∀ a : Word, s.kind a ≠ .ram → u.mem.read a.toNat = s.mem.read a.toNat

theorem RamOnly.of_eq {s u : State} (hcfg : u.cfg = s.cfg) (hmem : u.mem = s.mem) : RamOnly s u :=
  ⟨hcfg, fun h => by rwa [State.memCanonical, hmem], fun _ _ => by rw [hmem]⟩

theorem RamOnly.trans {s u t : State} (hsu : RamOnly s u) (hut : RamOnly u t) : RamOnly s t :=
  ⟨hut.cfg.trans hsu.cfg, fun h => hut.canonical (hsu.canonical h),
    fun a ha => (hut.outside a (by rwa [kind_congr hsu.cfg])).trans (hsu.outside a ha)⟩

/-- `u` is reached from `s` by writes of registers, flags and memory: the status registers but for the flags, the alignment of the
program counter and `CYCLES` are kept. -/
structure Carries (s u : State) : Prop where
  ram : RamOnly s u
  spsr : u.spsr = s.spsr
  flags : ∃ f, u.cpsr = withFlags s.cpsr f
  cycles : u.cycles = s.cycles
  pc : s.pcAligned → u.pcAligned

theorem Carries.t {s u : State} (h : Carries s u) : u.cpsr.t = s.cpsr.t := by
  obtain ⟨f, hf⟩ := h.flags
  rw [hf]
  rfl

theorem Carries.trans {s u t : State} (hsu : Carries s u) (hut : Carries u t) : Carries s t := by
  obtain ⟨f, hf⟩ := hsu.flags
  obtain ⟨g, hg⟩ := hut.flags
  exact ⟨hsu.ram.trans hut.ram, hut.spsr.trans hsu.spsr, ⟨g, by rw [hg, hf]; rfl⟩, hut.cycles.trans hsu.cycles,
    fun h => hut.pc (hsu.pc h)⟩

theorem Carries.ite {s u v : State} (hu : Carries s u) (c : Prop) [Decidable c] (hv : Carries s v) :
    Carries s (if c then u else v) := by
  split <;> assumption

/-- An operation that leaves CPSR and r15. -/
theorem Carries.of_eq {s u : State} (hram : RamOnly s u) (hspsr : u.spsr = s.spsr) (hcpsr : u.cpsr = s.cpsr)
    (hcycles : u.cycles = s.cycles) (hpc : u.pc = s.pc) : Carries s u :=
  ⟨hram, hspsr, ⟨flagsOf s.cpsr, hcpsr⟩, hcycles, fun h => by rwa [State.pcAligned, hcpsr, hpc]⟩

theorem carries_refl (s : State) : Carries s s := .of_eq (.of_eq rfl rfl) rfl rfl rfl rfl

theorem carries_setPhys (s : State) (p : PhysReg) (v : Word) : Carries s (s.setPhys p v) where
  ram := .of_eq (setPhys_cfg ..) (setPhys_mem ..)
  spsr := setPhys_spsr ..
  flags := ⟨flagsOf s.cpsr, setPhys_cpsr ..⟩
  cycles := setPhys_cycles ..
  pc h := by
    by_cases hp : p = .pc
    · subst hp
      exact alignPc_idem s.cpsr.t v
    · rwa [State.pcAligned, setPhys_cpsr, setPhys_pc_of_ne s v hp]

theorem carries_setReg (s : State) (i : Reg) (v : Word) : Carries s (s.setReg i v) := carries_setPhys s _ v

theorem carries_setFlags (s : State) (f : Flags) : Carries s (s.setFlags f) :=
  ⟨.of_eq rfl rfl, rfl, ⟨f, rfl⟩, rfl, id⟩

theorem carries_setFlagsIf (s : State) (asked : Bool) (f : Flags) : Carries s (s.setFlagsIf asked f) := by
  cases asked
  · exact carries_refl s
  · exact carries_setFlags s f

theorem carries_setMulFlags (s : State) (sb n z : Bool) : Carries s (s.setMulFlags sb n z) := by
  cases sb
  · exact carries_refl s
  · exact (carries_setFlags s _).trans (.of_eq (.of_eq rfl rfl) rfl rfl rfl rfl)

theorem carries_writeBack (s : State) (wb : Option (Reg × Word)) : Carries s (s.writeBack wb) := by
  cases wb with
  | none => exact carries_refl s
  | some x => exact carries_setReg s x.1 x.2

theorem carries_setBlock (s : State) (user : Bool) (l : List (Reg × Word)) : Carries s (s.setBlock user l) :=
  .of_eq (.of_eq (setBlock_cfg ..) (setBlock_mem ..)) (setBlock_spsr ..) (setBlock_cpsr ..) (setBlock_cycles ..) (setBlock_pc ..)

theorem carries_memRead (s : State) (w : Width) (a : Word) : Carries s (s.memRead w a).2 :=
  .of_eq (.of_eq (memRead_cfg ..) (memRead_mem ..)) (memRead_spsr ..) (memRead_cpsr ..) (memRead_cycles ..) (memRead_pc ..)

theorem carries_load (s : State) (k : LoadKind) (a : Word) : Carries s (s.load k a).2 :=
  .of_eq (.of_eq (load_cfg ..) (load_mem ..)) (load_spsr ..) (load_cpsr ..) (load_cycles ..) (load_pc ..)

theorem carries_readWords (s : State) (a : Word) (n : Nat) : Carries s (s.readWords a n).2 :=
  .of_eq (.of_eq (readWords_cfg ..) (readWords_mem ..)) (readWords_spsr ..) (readWords_cpsr ..) (readWords_cycles ..)
    (readWords_pc ..)

/-- A byte write changes memory in RAM only (R63, R67). -/
theorem ramOnly_byteWrite (s : State) (p : Word) (b : Byte) : RamOnly s (s.byteWrite p b) := by
  refine ⟨byteWrite_cfg .., byteWrite_wf s p b, fun a ha => ?_⟩
  by_cases hap : a = p
  · subst hap
    rw [byteWrite_mem, if_neg ha]
  · exact byteWrite_read_other s p b hap

theorem ramOnly_writeBytes (s : State) (p : Word) (bs : List Byte) : RamOnly s (s.writeBytes p bs) := by
  induction bs generalizing s p with
  | nil => exact .of_eq rfl rfl
  | cons b bs ih => exact (ramOnly_byteWrite s p b).trans (ih _ _)

theorem carries_writeBytes (s : State) (p : Word) (bs : List Byte) : Carries s (s.writeBytes p bs) :=
  .of_eq (ramOnly_writeBytes s p bs) (writeBytes_spsr ..) (writeBytes_cpsr ..) (writeBytes_cycles ..) (writeBytes_pc ..)

theorem carries_memWrite (s : State) (w : Width) (a v : Word) : Carries s (s.memWrite w a v) := carries_writeBytes ..

theorem carries_writeWords (s : State) (a : Word) (vs : List Word) : Carries s (s.writeWords a vs) := by
  rw [writeWords_eq]
  exact carries_writeBytes ..

/-! ### What the ends of an instruction do -/

/-- The form of an instruction is that of its encoding (R2, R100). -/
def formOf (i : Instr) : Form :=
  match encode i with
  | .wide _ => .wide
  | .narrow _ => .narrow

/-- The branch-exchanges of both forms (R236, R349). -/
def isExchange : Instr → Bool
  | .bx _ _ => true
  | .tBx _ => true
  | _ => false

/-- The software interrupts of both forms (R300, R393). -/
def isSoftwareInterrupt : Instr → Bool
  | .swi _ _ => true
  | .tSwi _ => true
  | _ => false

/-- The four ways in which the status registers can change (R446): only the flags; T by a branch-exchange; CPSR from the SPSR of the
mode in force; entry into SVC or IRQ. `advances` says that the program counter is aligned after an advance. -/
inductive StatusChange (advances mayExchange mayEnter : Prop) (s t : State) : Prop
  | kept (hcpsr : ∃ f, t.cpsr = withFlags s.cpsr f) (hspsr : t.spsr = s.spsr)
      (hpc : advances → s.pcAligned → t.pcAligned)
  | exchanged (may : mayExchange) (hcpsr : ∃ b, t.cpsr = { s.cpsr with t := b }) (hspsr : t.spsr = s.spsr) (hpc : t.pcAligned)
  | returned (e : ExcMode) (he : s.excMode = some e) (hlegal : (Mode.ofBits (s.spsr.get e).m).isSome = true)
      (hcpsr : t.cpsr = s.spsr.get e) (hspsr : t.spsr = s.spsr) (hpc : t.pcAligned)
  | entered (may : mayEnter) (e : ExcMode) (he : e ∈ [ExcMode.svc, .irq])
      (hcpsr : t.cpsr = { s.cpsr with m := e.toMode.bits, i := true, t := false }) (hspsr : t.spsr = s.spsr.set e s.cpsr)
      (hpc : t.pcAligned)

/-- What an instruction or a step can have done: memory changes in RAM only, at least one cycle is counted when the costs are
positive (R148), and the status registers change in one of the four ways. -/
structure Effect (advances mayExchange mayEnter : Prop) (s t : State) : Prop where
  ram : RamOnly s t
  cycles : s.cfg.cost.wf = true → s.cycles < t.cycles
  status : StatusChange advances mayExchange mayEnter s t

/-- The effect of one instruction. -/
abbrev InstrEffect (i : Instr) (s t : State) : Prop :=
  Effect (s.cpsr.t = decide (formOf i = .narrow)) (isExchange i = true) (isSoftwareInterrupt i = true) s t

theorem pcAligned_branchTo (u : State) (v : Word) (cost : Nat) : ((u.branchTo v).addCycles cost).pcAligned :=
  alignPc_idem u.cpsr.t v

/-- An aligned program counter that moves past an instruction of its own form stays aligned (R27, R29). -/
theorem alignPc_add_size {f : Form} {t : Bool} {pc : Word} (ht : t = decide (f = .narrow)) (h : alignPc t pc = pc) :
    alignPc t (pc + f.size) = pc + f.size := by
  have hfour : (4 : Word).toNat = 4 := rfl
  have htwo : (2 : Word).toNat = 2 := rfl
  subst ht
  rw [alignPc_eq_iff] at h ⊢
  cases f
  · simp only [Form.size, BitVec.toNat_add, hfour, reduceCtorEq, decide_false, Bool.false_eq_true, if_false] at h ⊢
    omega
  · simp only [Form.size, BitVec.toNat_add, htwo, decide_true, if_true] at h ⊢
    omega

theorem lt_add_cost {s u : State} (hu : Carries s u) {cost : Nat} (hcost : s.cfg.cost.wf = true → 0 < cost)
    (hwf : s.cfg.cost.wf = true) : s.cycles < u.cycles + cost := by
  have := hcost hwf
  have := hu.cycles
  omega

/-- The advance (R147). -/
theorem effect_advance {i : Instr} {f : Form} (hf : formOf i = f) {s u : State} (hu : Carries s u) {cost : Nat}
    (hcost : s.cfg.cost.wf = true → 0 < cost) : InstrEffect i s ((u.setRawPc (u.pc + f.size)).addCycles cost) where
  ram := hu.ram.trans (.of_eq rfl rfl)
  cycles := lt_add_cost hu hcost
  status := .kept hu.flags hu.spsr fun hform hs => alignPc_add_size (t := u.cpsr.t) (by rw [hu.t, hform, hf]) (hu.pc hs)

/-- The redirection (R29, R147). -/
theorem effect_redirect {i : Instr} {s u : State} (hu : Carries s u) (v : Word) {cost : Nat}
    (hcost : s.cfg.cost.wf = true → 0 < cost) : InstrEffect i s ((u.branchTo v).addCycles cost) where
  ram := hu.ram.trans (.of_eq rfl rfl)
  cycles := lt_add_cost hu hcost
  status := .kept hu.flags hu.spsr fun _ _ => pcAligned_branchTo u v cost

/-- The return from an exception (R185, R288). -/
theorem effect_return {i : Instr} {s u : State} (hu : Carries s u) {e : ExcMode} (he : s.excMode = some e)
    (hlegal : (Mode.ofBits (s.spsr.get e).m).isSome = true) (v : Word) {cost : Nat}
    (hcost : s.cfg.cost.wf = true → 0 < cost) :
    InstrEffect i s (((u.setCpsr (u.spsr.get e)).branchTo v).addCycles cost) where
  ram := hu.ram.trans (.of_eq rfl rfl)
  cycles := lt_add_cost hu hcost
  status := .returned e he hlegal (congrArg (SpsrFile.get · e) hu.spsr) hu.spsr (pcAligned_branchTo _ v cost)

/-- The branch-exchange (R236, R349). -/
theorem exchange_effect {i : Instr} (hi : isExchange i = true) {s t : State} {v : Word} (h : s.exchange v = .next t) :
    InstrEffect i s t := by
  cases h
  exact ⟨.of_eq rfl rfl, fun _ => Nat.lt_add_of_pos_right (by decide), .exchanged hi ⟨_, rfl⟩ rfl (pcAligned_branchTo _ v 3)⟩

/-- The effect of an entry with its cost (R440). -/
theorem effect_enter {advances mayExchange mayEnter : Prop} (may : mayEnter) (s : State) {e : ExcMode}
    (he : e ∈ [ExcMode.svc, .irq]) (vector link : Word) :
    Effect advances mayExchange mayEnter s ((s.enter e vector link).addCycles 3) where
  ram := .of_eq (enter_cfg s e vector link) (enter_mem s e vector link)
  cycles _ := by rw [addCycles_cycles, enter_cycles]; omega
  status := .entered may e he (enter_cpsr s e vector link) (enter_spsr s e vector link) (alignPc_idem false vector)

theorem softwareInterrupt_effect {i : Instr} (hi : isSoftwareInterrupt i = true) {s t : State}
    (h : s.softwareInterrupt = .next t) : InstrEffect i s t := by
  cases h
  exact effect_enter hi s (by cases s.cfg.swiMode <;> decide) ..

/-! ### The families of instructions -/

/-- The costs of a well-formed table are positive (R148, R492). -/
theorem costs_pos {c : Cost} (h : c.wf = true) : 0 < c.dataProc ∧ 0 < c.swap ∧ 0 < c.blFirst := by
  simp only [Cost.wf, Bool.and_eq_true, decide_eq_true_eq] at h
  omega

theorem longMultiplyCost_pos (sgn acc : Bool) {c : Cost} (h : c.wf = true) : 0 < longMultiplyCost sgn acc c := by
  simp only [Cost.wf, Bool.and_eq_true, decide_eq_true_eq] at h
  cases sgn <;> cases acc <;> simp only [longMultiplyCost] <;> omega

theorem accessCost_pos (a : Access) {c : Cost} (h : c.wf = true) : 0 < a.cost c := by
  simp only [Cost.wf, Bool.and_eq_true, decide_eq_true_eq] at h
  rcases a with (_ | _ | _ | _ | _) | (_ | _ | _) <;> simp only [Access.cost] <;> omega

/-- The advance after register, flag and memory writes, in the shape in which meanings end. -/
theorem finish_effect {i : Instr} {f : Form} (hf : formOf i = f) {s u t : State} (hu : Carries s u) {cost : Nat}
    (hcost : s.cfg.cost.wf = true → 0 < cost) (h : u.finish f cost = .next t) : InstrEffect i s t := by
  cases h
  exact effect_advance hf hu hcost

theorem finishAt_effect {i : Instr} {s u t : State} (hu : Carries s u) {v : Word} {cost : Nat}
    (hcost : s.cfg.cost.wf = true → 0 < cost) (h : u.finishAt v cost = .next t) : InstrEffect i s t := by
  cases h
  exact effect_redirect hu v hcost

theorem skipped_effect {i : Instr} (hi : formOf i = .wide) (s : State) : InstrEffect i s (skipped s) :=
  effect_advance hi (carries_refl s) fun _ => Nat.one_pos

/-- A gated instruction is skipped or has the effect of what the gate guards (R151). -/
theorem gate_effect {i : Instr} (hi : formOf i = .wide) {c : Cond} {s t : State} {k : Out}
    (hk : k = .next t → InstrEffect i s t) (h : gate c s k = .next t) : InstrEffect i s t := by
  rcases gate_eq_next.1 h with ⟨-, hnext⟩ | ⟨-, rfl⟩
  · exact hk hnext
  · exact skipped_effect hi s

theorem dataProc_effect {i : Instr} (hi : formOf i = .wide) {op : AluOp} {c : Cond} {sb : Bool} {rn rd : Reg} {o : Operand2}
    {s t : State} (h : dataProc op c sb rn rd o s = .next t) : InstrEffect i s t := by
  have hcost : s.cfg.cost.wf = true → 0 < s.cfg.cost.dataProc + operandExtraCost o s.cfg.cost :=
    fun hwf => Nat.add_pos_left (costs_pos hwf).1 _
  refine gate_effect hi (fun h => ?_) h
  obtain ⟨-, h⟩ := refuseIf_eq_next.1 h
  split at h
  · exact finish_effect hi (carries_setFlags ..) hcost h
  · split at h
    · split at h
      · obtain ⟨e, he, hlegal, rfl⟩ := (exceptionReturn_eq_next rfl).1 h
        exact effect_return (carries_refl s) he hlegal _ fun _ => Nat.add_pos_right _ (by decide)
      · exact finishAt_effect (carries_refl s) (fun _ => Nat.add_pos_right _ (by decide)) h
    · exact finish_effect hi ((carries_setReg ..).trans (carries_setFlagsIf ..)) hcost h

theorem multiply_effect {i : Instr} (hi : formOf i = .wide) {refused : Bool} {c : Cond} {sb : Bool} {rd : Reg} {r : Word}
    {cost : Nat} (hcost : 0 < cost) {s t : State} (h : multiply refused c sb rd r cost s = .next t) : InstrEffect i s t := by
  refine gate_effect hi (fun h => ?_) h
  obtain ⟨-, h⟩ := refuseIf_eq_next.1 h
  exact finish_effect hi ((carries_setReg ..).trans (carries_setMulFlags ..)) (fun _ => hcost) h

theorem multiplyLong_effect {i : Instr} (hi : formOf i = .wide) {c : Cond} {sb : Bool} {rdHi rdLo rs rm : Reg} {r : BitVec 64}
    {cost : Nat} {s t : State} (hcost : s.cfg.cost.wf = true → 0 < cost)
    (h : multiplyLong c sb rdHi rdLo rs rm r cost s = .next t) : InstrEffect i s t := by
  refine gate_effect hi (fun h => ?_) h
  obtain ⟨-, h⟩ := refuseIf_eq_next.1 h
  obtain ⟨-, h⟩ := refuseIf_eq_next.1 h
  exact finish_effect hi (((carries_setReg ..).trans (carries_setReg ..)).trans (carries_setMulFlags ..)) hcost h

theorem swap_effect {i : Instr} (hi : formOf i = .wide) {k : LoadKind} {c : Cond} {rn rd rm : Reg} {s t : State}
    (h : swap k c rn rd rm s = .next t) : InstrEffect i s t := by
  refine gate_effect hi (fun h => ?_) h
  obtain ⟨-, h⟩ := refuseIf_eq_next.1 h
  obtain ⟨-, h⟩ := refuseIf_eq_next.1 h
  have hwrites := ((carries_load s k (s.reg rn)).trans (carries_memWrite _ k.width (s.reg rn) (s.reg rm))).trans
    (carries_setReg _ rd (s.load k (s.reg rn)).1)
  exact finish_effect hi hwrites (fun hwf => (costs_pos hwf).2.1) h

theorem loadInto_effect {i : Instr} {f : Form} (hf : formOf i = f) {k : LoadKind} {cost : Nat} {wb : Option (Reg × Word)}
    {rd : Reg} {a : Word} {s t : State} (hcost : s.cfg.cost.wf = true → 0 < cost)
    (h : loadInto f k cost wb rd a s = .next t) : InstrEffect i s t := by
  have hload := (carries_load s k a).trans (carries_writeBack _ wb)
  obtain ⟨-, h⟩ := refuseIf_eq_next.1 h
  split at h
  · exact finishAt_effect hload (fun hwf => Nat.add_pos_left (hcost hwf) _) h
  · exact finish_effect hf (hload.trans (carries_setReg ..)) hcost h

theorem storeFrom_effect {i : Instr} {f : Form} (hf : formOf i = f) {w : Width} {cost : Nat} {wb : Option (Reg × Word)}
    {rd : Reg} {a : Word} {s t : State} (hcost : s.cfg.cost.wf = true → 0 < cost)
    (h : storeFrom f w cost wb rd a s = .next t) : InstrEffect i s t := by
  obtain ⟨-, h⟩ := refuseIf_eq_next.1 h
  exact finish_effect hf ((carries_memWrite ..).trans (carries_writeBack ..)) hcost h

theorem wideLoad_effect {i : Instr} (hi : formOf i = .wide) {k : LoadKind} {c : Cond} {p u w : Bool} {rn rd : Reg} {off : Word}
    {s t : State} (h : wideLoad k ((Access.load k).cost s.cfg.cost) c p u w rn rd off s = .next t) : InstrEffect i s t := by
  refine gate_effect hi (fun h => ?_) h
  obtain ⟨-, h⟩ := refuseIf_eq_next.1 h
  exact loadInto_effect hi (accessCost_pos _) h

theorem wideStore_effect {i : Instr} (hi : formOf i = .wide) {wd : Width} {c : Cond} {p u w : Bool} {rn rd : Reg} {off : Word}
    {s t : State} (h : wideStore wd ((Access.store wd).cost s.cfg.cost) c p u w rn rd off s = .next t) : InstrEffect i s t := by
  refine gate_effect hi (fun h => ?_) h
  obtain ⟨-, h⟩ := refuseIf_eq_next.1 h
  exact storeFrom_effect hi (accessCost_pos _) h

/-- A list that is not empty names a register, so a block transfer counts a cycle for it (R281, R492). -/
theorem length_regsOf_pos {list : BitVec 16} (h : (list == 0) = false) : 0 < (regsOf list).length := by
  rw [List.length_pos_iff]
  intro hnil
  have hall : ∀ k : Nat, k < 16 → list.getLsbD k = false := fun k hk => by
    have := List.filter_eq_nil_iff.1 hnil ⟨k, hk⟩ (by revert hk; revert k; decide)
    simpa using this
  have : list = 0 := BitVec.eq_of_getLsbD_eq fun k hk => by rw [hall k hk, BitVec.ofNat_eq_ofNat, BitVec.getLsbD_zero]
  simp [this] at h

theorem blockLoad_effect {i : Instr} {f : Form} (hf : formOf i = f) {p u sb w : Bool} {rn : Reg} {list : BitVec 16} {s t : State}
    (h : blockLoad f p u sb w rn list s = .next t) : InstrEffect i s t := by
  obtain ⟨hlist, -, -, -, -, hend⟩ := blockLoad_eq_next.1 h
  have hpos := length_regsOf_pos hlist
  have hread := carries_readWords s (blockStart p u (s.reg rn) (regsOf list).length) (regsOf list).length
  have hbase := fun v => (hread.trans (carries_setReg _ rn v)).ite (w = true) hread
  have hwrites := fun v user l => (hbase v).trans (carries_setBlock _ user l)
  rcases hend with ⟨-, rfl⟩ | ⟨-, -, rfl⟩ | ⟨-, -, e, he, hlegal, rfl⟩
  · exact effect_advance hf (hwrites ..) fun _ => by omega
  · exact effect_redirect (hwrites ..) _ fun _ => by omega
  · exact effect_return (hwrites ..) he hlegal _ fun _ => by omega

theorem blockStore_effect {i : Instr} {f : Form} (hf : formOf i = f) {p u sb w : Bool} {rn : Reg} {list : BitVec 16} {s t : State}
    (h : blockStore f p u sb w rn list s = .next t) : InstrEffect i s t := by
  obtain ⟨hlist, -, -, -, -, rfl⟩ := blockStore_eq_next.1 h
  have hpos := length_regsOf_pos hlist
  have hwrite := carries_writeWords s (blockStart p u (s.reg rn) (regsOf list).length)
    ((regsOf list).map (s.blockValue f sb))
  exact effect_advance hf ((hwrite.trans (carries_setReg ..)).ite _ hwrite) fun _ => by omega

theorem narrowAlu_effect {i : Instr} (hi : formOf i = .narrow) {op : AluOp} {a b : Word} {shc : Bool} {rd : LowReg} {cost : Nat}
    {s t : State} (hcost : s.cfg.cost.wf = true → 0 < cost) (h : narrowAlu op a b shc rd cost s = .next t) :
    InstrEffect i s t := by
  unfold narrowAlu at h
  split at h
  · exact finish_effect hi (carries_setFlags ..) hcost h
  · exact finish_effect hi ((carries_setReg ..).trans (carries_setFlags ..)) hcost h

theorem highWrite_effect {i : Instr} (hi : formOf i = .narrow) {rd : Reg} {r : Word} {s t : State}
    (h : highWrite rd r s = .next t) : InstrEffect i s t := by
  unfold highWrite at h
  split at h
  · exact finishAt_effect (carries_refl s) (fun _ => Nat.add_pos_right _ (by decide)) h
  · exact finish_effect hi (carries_setReg ..) (fun hwf => (costs_pos hwf).1) h

/-- A narrow conditional branch (R389). -/
theorem tBCond_effect {i : Instr} (hi : formOf i = .narrow) {c : Cond} {x : BitVec 8} {s t : State}
    (h : execTBCond c x s = .next t) : InstrEffect i s t := by
  unfold execTBCond at h
  split at h
  · exact finishAt_effect (carries_refl s) (fun _ => by decide) h
  · exact finish_effect hi (carries_refl s) (fun _ => by decide) h

/-! ### All instructions -/

theorem exec_effect {i : Instr} {s t : State} (h : exec i s = .next t) : InstrEffect i s t := by
  have hdp := fun hwf : s.cfg.cost.wf = true => (costs_pos hwf).1
  cases i
  case swi => exact gate_effect rfl (softwareInterrupt_effect rfl) h
  case tSwi => exact softwareInterrupt_effect rfl h
  case bx => exact gate_effect rfl (exchange_effect rfl) h
  case tBx => exact exchange_effect rfl h
  case b => exact gate_effect rfl (finishAt_effect (carries_refl s) fun _ => by decide) h
  case bl => exact gate_effect rfl (finishAt_effect (carries_setReg ..) fun _ => by decide) h
  case mul => exact multiply_effect rfl (by decide) h
  case mla => exact multiply_effect rfl (by decide) h
  case umull => exact multiplyLong_effect rfl (longMultiplyCost_pos false false) h
  case umlal => exact multiplyLong_effect rfl (longMultiplyCost_pos false true) h
  case smull => exact multiplyLong_effect rfl (longMultiplyCost_pos true false) h
  case smlal => exact multiplyLong_effect rfl (longMultiplyCost_pos true true) h
  case swp | swpb => exact swap_effect rfl h
  case ldrImm | ldrReg => exact wideLoad_effect (k := .word) rfl h
  case ldrbImm | ldrbReg => exact wideLoad_effect (k := .byte) rfl h
  case ldrhImm | ldrhReg => exact wideLoad_effect (k := .half) rfl h
  case ldrsbImm | ldrsbReg => exact wideLoad_effect (k := .signedByte) rfl h
  case ldrshImm | ldrshReg => exact wideLoad_effect (k := .signedHalf) rfl h
  case strImm | strReg => exact wideStore_effect (wd := .word) rfl h
  case strbImm | strbReg => exact wideStore_effect (wd := .byte) rfl h
  case strhImm | strhReg => exact wideStore_effect (wd := .half) rfl h
  case ldm => exact gate_effect rfl (blockLoad_effect rfl) h
  case stm => exact gate_effect rfl (blockStore_effect rfl) h
  case tPop | tPopPc | tLdmia => exact blockLoad_effect rfl h
  case tPush | tStmia => exact blockStore_effect rfl h
  case tLslImm | tLsrImm | tAsrImm => exact narrowAlu_effect (op := .mov) rfl hdp h
  case tAddReg | tSubReg | tAddImm3 | tSubImm3 | tMovImm | tCmpImm | tAddImm8 | tSubImm8 | tAnd | tEor | tAdc | tSbc | tTst
      | tCmp | tCmn | tOrr | tBic | tMvn | tNeg =>
    dsimp only [exec] at h
    exact narrowAlu_effect rfl hdp h
  case tLsl | tLsr | tAsr | tRor =>
    exact narrowAlu_effect (op := .mov) rfl (fun hwf => Nat.add_pos_left (hdp hwf) _) h
  case tMul => exact finish_effect rfl ((carries_setReg ..).trans (carries_setMulFlags ..)) (fun _ => by decide) h
  case tAddHiH1 | tAddHiH2 | tMovHiH1 | tMovHiH2 => exact highWrite_effect rfl h
  case tCmpHiH1 | tCmpHiH2 => exact finish_effect rfl (carries_setFlags ..) hdp h
  case tLdrPc | tLdrReg | tLdrImm | tLdrSp => exact loadInto_effect rfl (accessCost_pos (.load .word)) h
  case tLdrbReg | tLdrbImm => exact loadInto_effect rfl (accessCost_pos (.load .byte)) h
  case tLdrhReg | tLdrhImm => exact loadInto_effect rfl (accessCost_pos (.load .half)) h
  case tLdsbReg => exact loadInto_effect rfl (accessCost_pos (.load .signedByte)) h
  case tLdshReg => exact loadInto_effect rfl (accessCost_pos (.load .signedHalf)) h
  case tStrReg | tStrImm | tStrSp => exact storeFrom_effect rfl (accessCost_pos (.store .word)) h
  case tStrbReg | tStrbImm => exact storeFrom_effect rfl (accessCost_pos (.store .byte)) h
  case tStrhReg | tStrhImm => exact storeFrom_effect rfl (accessCost_pos (.store .half)) h
  case tAddPc | tAddSp | tAddSpImm | tSubSpImm => exact finish_effect rfl (carries_setReg ..) hdp h
  case tBCond => exact tBCond_effect rfl h
  case tB => exact finishAt_effect (carries_refl s) (fun _ => by decide) h
  case tBlFirst => exact finish_effect rfl (carries_setReg ..) (fun hwf => (costs_pos hwf).2.2) h
  case tBlSecond => exact finishAt_effect (carries_setReg ..) (fun _ => by decide) h
  case nrHalfwordSpace | nrUndefinedSpace | nrCoprocessorSpace | nrHighRegisterSpace | nrCond14 | nrNarrow => cases h
  all_goals exact dataProc_effect rfl h

/-! ### Steps -/

/-- What a step can have done (R140): the program counter stays aligned, T is written by a branch-exchange, and an exception is
entered by the servicing of an interrupt or by a software interrupt. -/
abbrev StepEffect (s t : State) : Prop :=
  Effect True (isExchange (decode s.fetch.1) = true)
    (s.checkPending = true ∨ isSoftwareInterrupt (decode s.fetch.1) = true) s t

/-- A fetch decodes to an instruction of the form that T selects (R31, R143). -/
theorem formOf_fetch (s : State) : s.cpsr.t = decide (formOf (decode s.fetch.1) = .narrow) := by
  rw [formOf, encode_decode, State.fetch, CodeWord.ofValue]
  cases s.cpsr.t <;> rfl

theorem carries_fetch (s : State) : Carries s s.fetch.2 := carries_memRead ..

/-- The effect of an instruction is one of the step that fetched it, which changed nothing that counts here. -/
theorem InstrEffect.step {s t : State} (h : InstrEffect (decode s.fetch.1) s.fetch.2 t) : StepEffect s t := by
  obtain ⟨-, -, hpc, hcpsr, hcycles⟩ := fetch_frame s
  have hspsr : s.fetch.2.spsr = s.spsr := (carries_fetch s).spsr
  have hexc : s.fetch.2.excMode = s.excMode := by rw [State.excMode, hcpsr]; rfl
  refine ⟨(carries_fetch s).ram.trans h.ram, fun hwf => ?_, ?_⟩
  · rw [← hcycles]
    exact h.cycles (by rwa [(carries_fetch s).ram.cfg])
  · have hstatus := h.status
    cases hstatus with
    | kept hf hs ha =>
      rw [hcpsr] at hf ha
      exact .kept hf (hs.trans hspsr) fun _ hp => ha (formOf_fetch s) ((carries_fetch s).pc hp)
    | exchanged may hb hs ha =>
      rw [hcpsr] at hb
      exact .exchanged may hb (hs.trans hspsr) ha
    | returned e he hl hc hs ha =>
      rw [hspsr] at hl hc hs
      exact .returned e (hexc ▸ he) hl hc hs ha
    | entered may e he hc hs ha =>
      rw [hcpsr] at hc hs
      rw [hspsr] at hs
      exact .entered (.inr may) e he hc hs ha

theorem step_effect {s t : State} (h : step s = .next t) : StepEffect s t := by
  rcases step_cases h with ⟨hp, rfl⟩ | ⟨-, -, rfl⟩ | ⟨-, -, hexec, -⟩
  · exact ⟨.of_eq (enter_cfg s .irq s.cfg.vecIrq (s.pc - 4)) (enter_mem s .irq s.cfg.vecIrq (s.pc - 4)),
      fun _ => Nat.lt_add_of_pos_right (by decide), .entered (.inl hp) .irq (by decide) rfl rfl (alignPc_idem false s.cfg.vecIrq)⟩
  · exact ⟨.of_eq rfl rfl, fun _ => Nat.lt_succ_self _, .kept ⟨flagsOf s.cpsr, rfl⟩ rfl fun _ hp => hp⟩
  · exact (exec_effect hexec).step

/-- Settles O10: bytes are written by the one operation that keeps the list canonical. -/
theorem stepKeepsMemoryCanonical : Obligations.StepKeepsMemoryCanonical := fun _ _ hs h => (step_effect h).ram.canonical hs

/-- Settles O15: a byte write stores in RAM alone, and nothing writes the parameters. -/
theorem onlyRamChanges : Obligations.OnlyRamChanges := fun _ _ h => ⟨(step_effect h).ram.cfg, (step_effect h).ram.outside⟩

/-- Settles O16: every end of an instruction counts a cost of the table or a fixed number, idling and servicing too. -/
theorem cyclesGrow : Obligations.CyclesGrow := fun _ _ hwf h => (step_effect h).cycles hwf

/-- Settles O11: an advance goes by the width of the form that was fetched and every other end masks its target; a mode number comes
from an entry or from a restore that R38 does not refuse. -/
theorem stepKeepsPcAlignedAndModeLegal : Obligations.StepKeepsPcAlignedAndModeLegal := by
  intro s t hpc hmode h
  have hstatus := (step_effect h).status
  cases hstatus with
  | kept hcpsr _ hpc' =>
    obtain ⟨f, hf⟩ := hcpsr
    exact ⟨hpc' trivial hpc, by rwa [State.modeLegal, hf]⟩
  | exchanged _ hcpsr _ hpc' =>
    obtain ⟨b, hb⟩ := hcpsr
    exact ⟨hpc', by rwa [State.modeLegal, hb]⟩
  | returned e _ hlegal hcpsr _ hpc' => exact ⟨hpc', by rwa [State.modeLegal, hcpsr]⟩
  | entered _ e _ hcpsr _ hpc' => exact ⟨hpc', by rw [State.modeLegal, hcpsr, Mode.ofBits_bits]; rfl⟩

/-- A property of one SPSR survives the write of another (R33). -/
theorem forall_get_set {P : Psr → Prop} {f : SpsrFile} {e : ExcMode} {p : Psr} (hf : ∀ e', P (f.get e')) (hp : P p)
    (e' : ExcMode) : P ((f.set e p).get e') := by
  by_cases he : e' = e
  · subst he
    rwa [SpsrFile.get_set_same]
  · rw [SpsrFile.get_set_other f p he]
    exact hf e'

/-- Settles O12: by the four ways in which the status registers change. A restore takes the SPSR of a legal mode, which is therefore
not the reset value; an entry goes to SVC or IRQ. -/
theorem stepKeepsReservedClearAndModesReached : Obligations.StepKeepsReservedClearAndModesReached := by
  intro s t h
  have hstatus := (step_effect h).status
  cases hstatus with
  | kept hcpsr hspsr =>
    obtain ⟨f, hf⟩ := hcpsr
    simp only [State.reservedClear, State.modesReached, hf, hspsr]
    exact ⟨id, id⟩
  | exchanged _ hcpsr hspsr =>
    obtain ⟨b, hb⟩ := hcpsr
    simp only [State.reservedClear, State.modesReached, hb, hspsr]
    exact ⟨id, id⟩
  | returned e _ hlegal hcpsr hspsr =>
    simp only [State.reservedClear, State.modesReached, hcpsr, hspsr]
    refine ⟨fun hr => ⟨hr.2 e, hr.2⟩, fun hm => ⟨(hm.2 e).resolve_left fun hzero => ?_, hm.2⟩⟩
    rw [hzero] at hlegal
    exact absurd hlegal (by decide)
  | entered _ e he hcpsr hspsr =>
    simp only [State.reservedClear, State.modesReached, hcpsr, hspsr]
    refine ⟨fun hr => ⟨hr.1, forall_get_set (P := fun p => p.reserved = 0) hr.2 hr.1⟩, fun hm => ⟨?_,
      forall_get_set (P := fun p => p.m = 0 ∨ p.m ∈ reachedModes) hm.2 (.inr hm.1)⟩⟩
    revert he
    cases e <;> decide

theorem exists_of_isSoftwareInterrupt {i : Instr} (h : isSoftwareInterrupt i = true) :
    (∃ c x, i = .swi c x) ∨ ∃ x, i = .tSwi x := by
  cases i <;> cases h
  · exact .inl ⟨_, _, rfl⟩
  · exact .inr ⟨_, rfl⟩

theorem exists_of_isExchange {i : Instr} (h : isExchange i = true) : (∃ c rm, i = .bx c rm) ∨ ∃ rs, i = .tBx rs := by
  cases i <;> cases h
  · exact .inl ⟨_, _, rfl⟩
  · exact .inr ⟨_, rfl⟩

/-- Settles O17: of the four ways in which the status registers change, entry alone writes an SPSR. -/
theorem spsrWrittenOnlyByEntry : Obligations.SpsrWrittenOnlyByEntry := by
  intro s t h
  have hstatus := (step_effect h).status
  cases hstatus with
  | kept _ hspsr => exact .inl hspsr
  | exchanged _ _ hspsr => exact .inl hspsr
  | returned _ _ _ _ hspsr => exact .inl hspsr
  | entered may e _ hcpsr hspsr =>
    exact .inr ⟨e, hspsr, congrArg Psr.m hcpsr, may.imp_right exists_of_isSoftwareInterrupt⟩

/-- Settles O18: the four ways in which the status registers change are those of R446. -/
theorem statusWriters : Obligations.StatusWriters := by
  intro s t h
  have hstatus := (step_effect h).status
  cases hstatus with
  | kept hcpsr hspsr =>
    obtain ⟨f, hf⟩ := hcpsr
    refine .inr (.inr ⟨hspsr, ?_⟩)
    rw [hf]
    exact ⟨rfl, rfl, rfl, rfl, .inl rfl⟩
  | exchanged may hcpsr hspsr =>
    obtain ⟨b, hb⟩ := hcpsr
    refine .inr (.inr ⟨hspsr, ?_⟩)
    rw [hb]
    exact ⟨rfl, rfl, rfl, rfl, .inr (exists_of_isExchange may)⟩
  | returned e he _ hcpsr hspsr => exact .inr (.inl ⟨e, he, hcpsr, hspsr⟩)
  | entered _ e _ hcpsr hspsr => exact .inl ⟨e, hcpsr, hspsr⟩

end Sys2Proof.Machine
end

section
/-! PROOFS. The step (40_pipeline_and_condition.md R140 to R146, R151), the invariants at reset (R50), the physical registers and
their active view (10_state.md R22 to R24), the bytes of the regions outside RAM (20_memory.md R62, R63, R67, R68), and the return
from an exception (60_exceptions.md R450). -/

namespace Sys2Proof.Machine

open Sys2Proof

/-! ### The step and the condition gate -/

/-- Every instruction with a condition is gated by it (R151). -/
theorem exec_of_condOf {i : Instr} {c : Cond} (h : condOf i = some c) (s : State) : ∃ k, exec i s = gate c s k := by
  unfold condOf at h
  split at h <;> cases h <;> exact ⟨_, rfl⟩

/-- Settles O8: the gate of a failing condition answers the skipped state. -/
theorem failingCondition : Obligations.FailingCondition := by
  intro i c s hi hc
  obtain ⟨k, hk⟩ := exec_of_condOf hi s
  exact hk.trans (gate_of_fails k hc)

/-- Settles O5: the running path of the step, and what a fetch leaves. -/
theorem stepRunsDecodedInstruction : Obligations.StepRunsDecodedInstruction := by
  rintro s i hpending hhalted rfl himpl
  obtain ⟨hrest, hregs, hpc, hcpsr, hcycles⟩ := fetch_frame s
  exact ⟨(step_of_running hpending hhalted).trans (executeOne_eq s himpl), hrest, hregs, hpc, hcpsr, hcycles, fetch_state s⟩

/-- Settles O13: the reset state is a closed term. -/
theorem resetHoldsInvariants : Obligations.ResetHoldsInvariants :=
  ⟨reset_mem_wf, rfl, rfl, ⟨rfl, fun e => by cases e <;> rfl⟩, by decide, fun e => .inl (by cases e <;> rfl)⟩

/-! ### Registers -/

/-- Settles O24: by the laws of register writes. -/
theorem physicalRegistersSeparate : Obligations.PhysicalRegistersSeparate := by
  intro s p v
  refine ⟨?_, fun q hq => phys_setPhys_other s v hq, by cases p <;> rfl⟩
  split
  · subst_vars
    exact phys_setPhys_pc s v
  · exact phys_setPhys_same s v ‹_›

theorem bankOf_bits (md : Mode) : bankOf md.bits = md.bank := by rw [bankOf, Mode.ofBits_bits]

theorem isFiq_bits (md : Mode) : isFiq md.bits = true ↔ md = .fiq := by cases md <;> decide

/-- Where two modes agree on a number (R24). -/
theorem physOf_eq_physOf_iff (m n : BitVec 5) (i : Reg) : physOf m i = physOf n i ↔
    i.val < 8 ∨ i = 15 ∨ (8 ≤ i.val ∧ i.val ≤ 12 ∧ (isFiq m = isFiq n)) ∨ ((i = 13 ∨ i = 14) ∧ bankOf m = bankOf n) := by
  by_cases h8 : i.val < 8
  · simp [physOf, h8]
  · by_cases h13 : i.val < 13
    · have hne {k : Reg} (hk : 13 ≤ k.val) : i ≠ k := fun h => by rw [h] at h13; omega
      have hcopy : physOf m i = physOf n i ↔ isFiq m = isFiq n := by
        simp only [physOf, h8, h13, dite_true, dite_false]
        cases isFiq m <;> cases isFiq n <;> simp
      simp [hcopy, h8, hne, show 8 ≤ i.val by omega, show i.val ≤ 12 by omega]
    · obtain rfl | rfl | rfl : i = 13 ∨ i = 14 ∨ i = 15 := by simp only [Fin.ext_iff]; omega
      all_goals simp [physOf]

theorem exists_bank_eq (b : Bank) : ∃ md : Mode, md.bank = b := by
  cases b
  · exact ⟨.usr, rfl⟩
  · exact ⟨.fiq, rfl⟩
  · exact ⟨.irq, rfl⟩
  · exact ⟨.svc, rfl⟩
  · exact ⟨.abt, rfl⟩
  · exact ⟨.und, rfl⟩

/-- Settles O25: the view keeps the number, and a number stands for the same register under two modes where both take it from the
same copies. -/
theorem activeView : Obligations.ActiveView := by
  refine ⟨fun m n i j => ?_, fun p => ?_⟩
  · have hfiq : isFiq m.bits = isFiq n.bits ↔ (m = .fiq ↔ n = .fiq) := by
      rw [Bool.eq_iff_iff, isFiq_bits, isFiq_bits]
    constructor
    · intro h
      obtain rfl : i = j := Fin.ext (by simpa using congrArg PhysReg.number h)
      rw [physOf_eq_physOf_iff, bankOf_bits, bankOf_bits, hfiq] at h
      exact ⟨rfl, h⟩
    · rintro ⟨rfl, h⟩
      rwa [physOf_eq_physOf_iff, bankOf_bits, bankOf_bits, hfiq]
  · cases p with
    | low i => exact ⟨.usr, i.castLE (by decide), by simp [physOf]⟩
    | mid i => exact ⟨.usr, (i.natAdd 8).castLE (by decide), by simp [physOf, isFiq, Mode.bits]; omega⟩
    | midFiq i => exact ⟨.fiq, (i.natAdd 8).castLE (by decide), by simp [physOf, isFiq, Mode.bits]; omega⟩
    | sp b =>
      obtain ⟨md, rfl⟩ := exists_bank_eq b
      exact ⟨md, 13, congrArg PhysReg.sp (bankOf_bits md)⟩
    | lr b =>
      obtain ⟨md, rfl⟩ := exists_bank_eq b
      exact ⟨md, 14, congrArg PhysReg.lr (bankOf_bits md)⟩
    | pc => exact ⟨.usr, 15, rfl⟩

/-! ### Bytes outside RAM -/

/-- Settles O29: these regions have an arm of their own in `ByteRead` and `ByteWrite`, and an address that no range holds is OPEN0. -/
theorem droppedWritesAndOpenReads : Obligations.DroppedWritesAndOpenReads := by
  intro s p b
  refine ⟨fun h => ?_, fun h => ?_, fun h => ?_, fun h => ?_⟩
  · simp only [State.byteRead, State.byteWrite, h, and_self]
  · simp only [State.byteRead, State.byteWrite, h, and_self]
  · simp only [State.byteRead, State.byteWrite, h, and_self]
  · have hnone : s.cfg.memMap.find? (fun r => r.lo ≤ p.toNat && p.toNat ≤ r.hi) = none :=
      List.find?_eq_none.2 fun r hr => by simpa using h r hr
    rw [State.kind, kindAt, hnone]

theorem and_eq_zero_iff_forall_bits {n : Nat} (x y : BitVec n) :
    x &&& y = 0 ↔ ∀ j : Nat, ¬ (y.getLsbD j = true ∧ x.getLsbD j = true) := by
  rw [BitVec.eq_of_getLsbD_eq_iff]
  refine forall_congr' fun j => ?_
  by_cases hj : j < n
  · rw [BitVec.getLsbD_and, BitVec.ofNat_eq_ofNat, BitVec.getLsbD_zero]
    cases x.getLsbD j <;> cases y.getLsbD j <;> simp [hj]
  · simp [BitVec.getLsbD_of_ge x j (by omega), hj]

/-- Settles O60: an access of a DEVICE byte is the one arm of `ByteRead` and of `ByteWrite` that draws. -/
theorem deviceBytes : Obligations.DeviceBytes := by
  intro s p b h
  have hwrite : s.byteWrite p b =
      ((s.setBus (.write p b :: s.bus)).bumpDraws).requestMask (Config.deviceRequests s.draws p b) := by
    simp only [State.byteWrite, h]
  refine ⟨by simp only [State.byteRead, h]; rfl, ?_⟩
  rw [hwrite]
  refine ⟨rfl, fun j => BitVec.getLsbD_or, ?_⟩
  show (s.halted && (s.ie &&& _) == 0) = true ↔ _
  rw [Bool.and_eq_true, beq_iff_eq, and_eq_zero_iff_forall_bits]

/-! ### The return from an exception (R450) -/

theorem immOperand_zero (imm8 : BitVec 8) (c : Bool) : (immOperand 0 imm8 c).op2 = zext imm8 := by
  apply BitVec.eq_of_getLsbD_eq
  intro j hj
  have hrotate : (j + 2 * (0 : BitVec 4).toNat) % 32 = j := Nat.mod_eq_of_lt hj
  rw [(immediateOperand 0 imm8 c).1 j hj, hrotate, zext, BitVec.getLsbD_setWidth]
  simp [hj]

theorem addWithCarry_false_r (a b : Word) : (addWithCarry a b false).r = a + b := by
  apply BitVec.eq_of_toNat_eq
  simp [addWithCarry]

/-- The return `ADDS pc, lr, #k` from a state that an entry into the mode `e` left, with CPSR of `s` in its SPSR and `link` in its
r14: the target is masked by the T of `s`. -/
theorem exists_return_of_entry {s t : State} {e : ExcMode} {link : Word} (hmode : s.modeLegal)
    (hspsr : t.spsr = s.spsr.set e s.cpsr) (hm : t.cpsr.m = e.toMode.bits) (hlink : t.phys (.lr e.toMode.bank) = link)
    (hregs : RegsBut [.lr e.toMode.bank] s t) (k : BitVec 8) :
    ∃ u, exec (.addImm .al true 14 15 0 k) t = .next u ∧ u.pc = alignPc s.cpsr.t (link + zext k) ∧ u.cpsr = s.cpsr ∧
      RegsBut [.lr e.toMode.bank] s u := by
  obtain ⟨md, hmd⟩ := Option.isSome_iff_exists.1 hmode
  have hsaved : t.spsr.get e = s.cpsr := by rw [hspsr, SpsrFile.get_set_same]
  have hexc : t.excMode = some e := (excMode_of_bits hm).trans (ExcMode.exc_toMode e)
  have hlr : t.rdOp .wide 14 = link := by
    rw [rdOp_of_ne t .wide (by decide), ← hlink, State.reg, hm]
    exact congrArg (fun b => t.phys (.lr b)) (bankOf_bits e.toMode)
  obtain ⟨u, hu, hcpsr, hregs', ⟨hpc, -⟩, -⟩ := (dataProcessingIntoPc .add .al 14 (.imm 0 k) t rfl (by decide) (by simp)).2.1
    e md hexc (by rw [hsaved, hmd])
  refine ⟨u, hu, ?_, hcpsr.trans hsaved, fun p hp hds => (hregs' p hp (by simp)).trans (hregs p hp hds)⟩
  rw [hpc, hcpsr, hsaved, hlr, State.shifter, immOperand_zero]
  exact congrArg (alignPc s.cpsr.t) (addWithCarry_false_r link (zext k))

/-- Settles O23: servicing and both forms of SWI are entries whose link is `pc - 4`, so the return adds what is between that and the
instruction to resume at, which lies at an aligned address. -/
theorem returnResumes : Obligations.ReturnResumes := by
  intro s hpc hmode
  have htarget {k : BitVec 8} {d : Word} (hk : zext k = 4 + d) : s.pc - 4 + zext k = s.pc + d := by
    rw [hk]
    bv_omega
  refine ⟨fun hp => ?_, fun c x ht hc => ?_, fun x ht => ?_⟩
  · obtain ⟨hspsr, hlr, hcpsr, -, -, hregs, -⟩ := enter_addCycles_frame s .irq s.cfg.vecIrq (s.pc - 4) 3
    have hphys (p : PhysReg) : s.serviceInterrupt.phys p = ((s.enter .irq s.cfg.vecIrq (s.pc - 4)).addCycles 3).phys p :=
      phys_congr rfl rfl p
    obtain ⟨u, hu, hpc', hrest⟩ := exists_return_of_entry (t := s.serviceInterrupt) hmode hspsr (congrArg Psr.m hcpsr)
      ((hphys _).trans hlr) (fun p hp hds => (hphys p).trans (hregs p hp hds)) 4
    refine ⟨_, u, step_of_checkPending hp, hu, hpc'.trans ?_, hrest⟩
    rw [htarget (d := 0) rfl, BitVec.ofNat_eq_ofNat, BitVec.add_zero]
    exact hpc
  · obtain ⟨hspsr, hlr, hcpsr, -, -, hregs, -⟩ := enter_addCycles_frame s (swiTarget s.cfg.swiMode) s.cfg.vecSwi (s.pc - 4) 3
    obtain ⟨u, hu, hpc', hrest⟩ := exists_return_of_entry hmode hspsr (congrArg Psr.m hcpsr) hlr hregs 8
    refine ⟨_, u, gate_of_passes _ hc, hu, hpc'.trans ?_, hrest⟩
    rw [htarget (d := 4) rfl]
    exact alignPc_add_size (f := .wide) ht hpc
  · obtain ⟨hspsr, hlr, hcpsr, -, -, hregs, -⟩ := enter_addCycles_frame s (swiTarget s.cfg.swiMode) s.cfg.vecSwi (s.pc - 4) 3
    obtain ⟨u, hu, hpc', hrest⟩ := exists_return_of_entry hmode hspsr (congrArg Psr.m hcpsr) hlr hregs 6
    refine ⟨_, u, rfl, hu, hpc'.trans ?_, hrest⟩
    rw [htarget (d := 2) rfl]
    exact alignPc_add_size (f := .narrow) ht hpc

end Sys2Proof.Machine
end

section
/-! PROOFS. Memory (20_memory.md R62 to R65, R71, R73, R78) and the fetch (R64, R143). Reads and writes of bytes and of words are put
in the order of their addresses, each with the state it starts in; a read of bytes in memory is then the list of these bytes. -/

namespace Sys2Proof.Machine

open Sys2Proof

/-! ### Runs of bytes in ascending order -/

/-- The last byte of a run is read in the state the bytes before it left. -/
theorem readBytes_succ (s : State) (p : Word) (n : Nat) :
    s.readBytes p (n + 1) =
      ((s.readBytes p n).1 ++ [((s.readBytes p n).2.byteRead (byteAddr p n)).1],
        ((s.readBytes p n).2.byteRead (byteAddr p n)).2) := by
  induction n generalizing s p with
  | zero => rw [byteAddr_zero]; rfl
  | succ n ih =>
    rw [byteAddr_succ, State.readBytes, ih]
    rfl

/-- The bytes of a run, each with the state it is read in. -/
theorem readBytes_eq_map_range (s : State) (p : Word) (n : Nat) :
    (s.readBytes p n).1 = (List.range n).map fun k => ((s.readBytes p k).2.byteRead (byteAddr p k)).1 := by
  induction n with
  | zero => rfl
  | succ n ih => rw [readBytes_succ, List.range_succ, List.map_append, ← ih]; rfl

theorem writeBytes_map_range (s : State) (p : Word) (f : Nat → Byte) (n : Nat) :
    s.writeBytes p ((List.range n).map f) = (List.range n).foldl (fun u k => u.byteWrite (byteAddr p k) (f k)) s := by
  induction n with
  | zero => rfl
  | succ n ih =>
    rw [List.range_succ, List.map_append, writeBytes_append, List.foldl_append, ih, List.length_map, List.length_range]
    rfl

theorem splitBytes_eq_map_range (v : Word) (n : Nat) :
    splitBytes v n = (List.range n).map fun k => (v >>> (8 * k)).setWidth 8 :=
  List.ext_getElem (by simp) fun k h _ => by rw [getElem_splitBytes, List.getElem_map, List.getElem_range]

/-- A byte that reads from the memory list (R67). -/
theorem byteRead_of_inMemory {s : State} {p : Word} (h : RegionKind.inMemory (s.kind p) = true) :
    s.byteRead p = (s.mem.read p.toNat, s) := by
  unfold State.byteRead
  split <;> rename_i hk
  · rfl
  · rfl
  all_goals rw [hk] at h; cases h

theorem readBytes_of_inMemory {s : State} {p : Word} {n : Nat} (h : InMemory n p s) :
    s.readBytes p n = ((List.range n).map fun k => s.mem.read (byteAddr p k).toNat, s) := by
  induction n with
  | zero => rfl
  | succ n ih =>
    rw [readBytes_succ, ih fun k hk => h k (by omega), byteRead_of_inMemory (h n (by omega)), List.range_succ, List.map_append]
    rfl

/-! ### The values of runs of bytes -/

/-- Bit `j` of a value put together from `n` bytes. -/
theorem getLsbD_joinBytes_map_range (f : Nat → Byte) (n : Nat) {j : Nat} (hj : j < 32) :
    (joinBytes ((List.range n).map f)).getLsbD j = (decide (j < 8 * n) && (f (j / 8)).getLsbD (j % 8)) := by
  rw [getLsbD_joinBytes _ _ hj, List.getD_eq_getElem?_getD, List.getElem?_map]
  by_cases h : j / 8 < n
  · simp [List.getElem?_range h, show j < 8 * n by omega]
  · simp [List.getElem?_eq_none (l := List.range n) (i := j / 8) (by simpa using h), show ¬ j < 8 * n by omega]

theorem joinBytes_splitBytes (v : Word) (n : Nat) {j : Nat} (hj : j < 32) :
    (joinBytes (splitBytes v n)).getLsbD j = (decide (j < 8 * n) && v.getLsbD j) := by
  rw [splitBytes_eq_map_range, getLsbD_joinBytes_map_range _ _ hj, BitVec.getLsbD_setWidth, BitVec.getLsbD_ushiftRight,
    Nat.div_add_mod, decide_eq_true (Nat.mod_lt j (by decide)), Bool.true_and]

/-- One byte more, below the others. -/
theorem joinBytes_cons {n : Nat} {bs : List Byte} {x : BitVec n} (h : joinBytes bs = x.setWidth 32) (b : Byte) :
    joinBytes (b :: bs) = (x ++ b).setWidth 32 := by
  apply BitVec.eq_of_getLsbD_eq
  intro j hj
  rw [joinBytes, h, BitVec.getLsbD_or, BitVec.getLsbD_shiftLeft, BitVec.getLsbD_setWidth, BitVec.getLsbD_setWidth, zext,
    BitVec.getLsbD_setWidth, BitVec.getLsbD_append]
  by_cases h8 : j < 8
  · simp [hj, h8]
  · simp [hj, h8, BitVec.getLsbD_of_ge b j (by omega), show j - 8 < 32 by omega]

theorem joinBytes_one (b : Byte) : joinBytes [b] = b.setWidth 32 := by simp [joinBytes, zext]

theorem joinBytes_two (b c : Byte) : joinBytes [b, c] = (c ++ b).setWidth 32 := joinBytes_cons (joinBytes_one c) b

theorem joinBytes_four (b c d e : Byte) : joinBytes [b, c, d, e] = e ++ d ++ c ++ b :=
  (joinBytes_cons (joinBytes_cons (joinBytes_two d e) c) b).trans (BitVec.setWidth_eq _)

/-- An aligned read of bytes in memory has no side effect, and its value is that of the bytes (R62, R65). -/
theorem memRead_of_inMemory {s : State} {w : Width} {a : Word} (ha : w.aligned a = true) (h : InMemory w.bytes a s) :
    s.memRead w a = (joinBytes ((List.range w.bytes).map fun k => s.mem.read (byteAddr a k).toNat), s) := by
  rw [State.memRead, alignDown_of_aligned ha, readBytes_of_inMemory h]

theorem memRead_byte_of_inMemory {s : State} {a : Word} (h : InMemory 1 a s) :
    s.memRead .byte a = ((s.mem.read (byteAddr a 0).toNat).setWidth 32, s) := by
  rw [memRead_of_inMemory (w := .byte) (by simp [Width.aligned, Width.alignDown]) h]
  exact congrArg (·, s) (joinBytes_one _)

theorem memRead_half_of_inMemory {s : State} {a : Word} (ha : Width.half.aligned a = true) (h : InMemory 2 a s) :
    s.memRead .half a = ((halfAt s a).setWidth 32, s) := by
  rw [memRead_of_inMemory ha h]
  exact congrArg (·, s) (joinBytes_two _ _)

theorem memRead_word_of_inMemory {s : State} {a : Word} (ha : Width.word.aligned a = true) (h : InMemory 4 a s) :
    s.memRead .word a = (wordAt s a, s) := by
  rw [memRead_of_inMemory ha h]
  exact congrArg (·, s) (joinBytes_four _ _ _ _)

/-! ### The fetch -/

/-- A program counter aligned to its form is aligned to the width of the fetch (R29, R143). -/
theorem aligned_fetchWidth {s : State} (h : s.pcAligned) : (fetchWidth s.cpsr.t).aligned s.pc = true := by
  rw [State.pcAligned] at h
  rw [Width.aligned, beq_iff_eq]
  cases ht : s.cpsr.t <;> rw [ht] at h <;> exact h

/-- Settles O6: the aligned read of the bytes in memory, at the width of the form. -/
theorem fetchReadsCurrentBytes : Obligations.FetchReadsCurrentBytes := by
  intro s hpc hmem
  have ha := aligned_fetchWidth hpc
  rw [State.fetch]
  cases ht : s.cpsr.t <;> rw [ht] at ha hmem
  · rw [fetchWidth, if_neg Bool.false_ne_true, memRead_word_of_inMemory ha hmem]
    rfl
  · rw [fetchWidth, if_pos rfl, memRead_half_of_inMemory ha hmem, CodeWord.ofValue, if_pos rfl,
      BitVec.setWidth_setWidth_of_le _ (by decide)]
    simp

/-! ### Stores and loads -/

/-- The low bytes of a value, as a mask (R65). -/
theorem joinBytes_splitBytes_eq (w : Width) (v : Word) : joinBytes (splitBytes v w.bytes) =
    match w with
    | .byte => v &&& 0x000000FF#32
    | .half => v &&& 0x0000FFFF#32
    | .word => v := by
  apply BitVec.eq_of_getLsbD_eq
  intro j hj
  rw [joinBytes_splitBytes v _ hj]
  cases w
  · rw [show 0x000000FF#32 = (BitVec.allOnes 8).setWidth 32 from rfl, BitVec.getLsbD_and, BitVec.getLsbD_setWidth,
      BitVec.getLsbD_allOnes]
    simp [hj, Width.bytes, Bool.and_comm, -BitVec.getLsbD_eq_getElem]
  · rw [show 0x0000FFFF#32 = (BitVec.allOnes 16).setWidth 32 from rfl, BitVec.getLsbD_and, BitVec.getLsbD_setWidth,
      BitVec.getLsbD_allOnes]
    by_cases h : j < 16 <;> simp [h, hj, Width.bytes, -BitVec.getLsbD_eq_getElem]
  · simp [hj, Width.bytes]

/-- Settles O26: runs of bytes are in ascending order, and each byte stored in RAM is the byte read there. -/
theorem storeThenLoad : Obligations.StoreThenLoad := by
  refine ⟨fun s w a v => ⟨?_, ?_⟩, fun s w a v hm ha hram => ?_⟩
  · rw [State.memWrite, splitBytes_eq_map_range, writeBytes_map_range]
  · refine ⟨fun k => ((s.readBytes (w.alignDown a) k).2.byteRead (byteAddr (w.alignDown a) k)).1,
      fun k => (s.readBytes (w.alignDown a) k).2, rfl, fun k _ => ?_, rfl, fun j hj => ?_⟩
    · exact Prod.ext rfl (congrArg Prod.snd (readBytes_succ s _ k)).symm
    · rw [State.memRead, readBytes_eq_map_range, getLsbD_joinBytes_map_range _ _ hj]
  · have hstored := bytesStored_memWrite s w a v hm
    have hquiet : s.memWrite w a v = s.setMem (s.memWrite w a v).mem :=
      writeBytes_quiet s _ _ fun k hk => by
        rw [alignDown_of_aligned ha, hram k (by simpa using hk)]
        exact ⟨RegionKind.noConfusion, RegionKind.noConfusion⟩
    rw [alignDown_of_aligned ha] at hstored
    have hmem : InMemory w.bytes a (s.memWrite w a v) := fun k hk => by
      rw [kind_congr (memWrite_cfg ..), hram k hk]
      rfl
    refine ⟨hquiet, hstored, ?_⟩
    refine Eq.trans ?_ (congrArg (·, _) (joinBytes_splitBytes_eq w v))
    rw [memRead_of_inMemory ha hmem, splitBytes_eq_map_range, List.map_congr_left fun k hk => ?_]
    exact hstored.1 k (List.mem_range.1 hk) (hram k (List.mem_range.1 hk))

/-- An aligned load is the access at its width, extended, under every policy (R62, R269). -/
theorem load_of_aligned {s : State} {k : LoadKind} {a : Word} (h : k.width.aligned a = true) :
    s.load k a = (k.extend (s.memRead k.width a).1, (s.memRead k.width a).2) := by
  simp [State.load, h]

/-! ### Runs of words -/

theorem byteAddr_add (a : Word) (m n : Nat) : byteAddr a (m + n) = byteAddr (byteAddr a m) n := by
  rw [byteAddr, byteAddr, byteAddr, BitVec.ofNat_add, BitVec.add_assoc]

theorem alignDown_word_byteAddr (a : Word) (j : Nat) :
    Width.word.alignDown (byteAddr a (4 * j)) = byteAddr (Width.word.alignDown a) (4 * j) := by
  induction j with
  | zero => rw [Nat.mul_zero, byteAddr_zero, byteAddr_zero]
  | succ j ih => rw [Nat.mul_succ, byteAddr_add, byteAddr_add, ← ih]; exact alignDown_word_add_four _

/-- An access is made at the aligned address (R73). -/
theorem memRead_alignDown (s : State) (w : Width) (a : Word) : s.memRead w (w.alignDown a) = s.memRead w a := by
  rw [State.memRead, State.memRead, alignDown_of_aligned (aligned_alignDown w a)]

theorem memWrite_alignDown (s : State) (w : Width) (a v : Word) : s.memWrite w (w.alignDown a) v = s.memWrite w a v := by
  rw [State.memWrite, State.memWrite, alignDown_of_aligned (aligned_alignDown w a)]

/-- Word `j` of a run lies at the aligned start plus `4 j` (R281, R283). -/
theorem memRead_word_byteAddr (s : State) (a : Word) (j : Nat) :
    s.memRead .word (byteAddr (Width.word.alignDown a) (4 * j)) = s.memRead .word (byteAddr a (4 * j)) := by
  rw [← alignDown_word_byteAddr, memRead_alignDown]

theorem memWrite_word_byteAddr (s : State) (a v : Word) (j : Nat) :
    s.memWrite .word (byteAddr (Width.word.alignDown a) (4 * j)) v = s.memWrite .word (byteAddr a (4 * j)) v := by
  rw [← alignDown_word_byteAddr, memWrite_alignDown]

/-- The last word of a run is read in the state the words before it left. -/
theorem readWords_succ (s : State) (a : Word) (n : Nat) :
    s.readWords a (n + 1) =
      ((s.readWords a n).1 ++ [((s.readWords a n).2.memRead .word (byteAddr a (4 * n))).1],
        ((s.readWords a n).2.memRead .word (byteAddr a (4 * n))).2) := by
  induction n generalizing s a with
  | zero => rw [Nat.mul_zero, byteAddr_zero]; rfl
  | succ n ih =>
    rw [Nat.mul_succ, Nat.add_comm (4 * n), byteAddr_add, State.readWords, ih]
    rfl

/-- The words of a run, each with the state it is read in. -/
theorem readWords_eq_map_range (s : State) (a : Word) (n : Nat) :
    (s.readWords a n).1 = (List.range n).map fun j => ((s.readWords a j).2.memRead .word (byteAddr a (4 * j))).1 := by
  induction n with
  | zero => rfl
  | succ n ih => rw [readWords_succ, List.range_succ, List.map_append, ← ih]; rfl

theorem getD_readWords (s : State) (a : Word) {n j : Nat} (h : j < n) :
    (s.readWords a n).1.getD j 0 = ((s.readWords a j).2.memRead .word (byteAddr a (4 * j))).1 := by
  rw [readWords_eq_map_range, List.getD_eq_getElem?_getD, List.getElem?_map, List.getElem?_range h]
  rfl

theorem readWords_alignDown (s : State) (a : Word) (n : Nat) : s.readWords (Width.word.alignDown a) n = s.readWords a n := by
  induction n with
  | zero => rfl
  | succ n ih => rw [readWords_succ, readWords_succ, ih, memRead_word_byteAddr]

theorem writeWords_eq_foldl (s : State) (a : Word) (vs : List Word) :
    s.writeWords a vs =
      (List.range vs.length).foldl (fun u j => u.memWrite .word (byteAddr a (4 * j)) (vs.getD j 0)) s := by
  induction vs generalizing s a with
  | nil => rfl
  | cons v vs ih =>
    rw [State.writeWords, ih, List.length_cons, List.range_succ_eq_map, List.foldl_cons, List.foldl_map, Nat.mul_zero, byteAddr_zero]
    simp only [Nat.mul_succ, Nat.add_comm _ 4, byteAddr_add, List.getD_cons_succ, List.getD_cons_zero]
    rfl

/-- Words in memory are read without side effect (R62, R65, R281). -/
theorem readWords_of_inMemory {s : State} {a : Word} {n : Nat} (ha : Width.word.aligned a = true) (h : InMemory (4 * n) a s) :
    s.readWords a n = ((List.range n).map fun j => wordAt s (byteAddr a (4 * j)), s) := by
  induction n with
  | zero => rfl
  | succ n ih =>
    have hword : InMemory 4 (byteAddr a (4 * n)) s := fun k hk => by
      rw [← byteAddr_add]
      exact h _ (by omega)
    have hal : Width.word.aligned (byteAddr a (4 * n)) = true := by
      rw [Width.aligned, alignDown_word_byteAddr, alignDown_of_aligned ha, beq_self_eq_true]
    rw [readWords_succ, ih fun k hk => h k (by omega), memRead_word_of_inMemory hal hword, List.range_succ, List.map_append]
    rfl

/-- Settles O27: loads of bytes in memory are aligned reads of these bytes. -/
theorem loadedValue : Obligations.LoadedValue := by
  refine ⟨fun s k a ha => ?_, fun s k a ha hmem => ?_, fun s a n j ha _ hmem hj => ?_⟩
  · rw [load_of_aligned ha]
    cases k <;> rfl
  · rw [load_of_aligned ha]
    cases k
    · rw [LoadKind.width, memRead_word_of_inMemory ha hmem]; rfl
    · rw [LoadKind.width, memRead_byte_of_inMemory hmem]; rfl
    · rw [LoadKind.width, memRead_half_of_inMemory ha hmem]; rfl
    · rw [LoadKind.width, memRead_byte_of_inMemory hmem]; simp [LoadKind.extend, sext]
    · rw [LoadKind.width, memRead_half_of_inMemory ha hmem]; simp [LoadKind.extend, sext]
  · rw [readWords_of_inMemory ha hmem, List.getD_eq_getElem?_getD, List.getElem?_map, List.getElem?_range hj]
    exact ⟨rfl, rfl⟩

/-! ### Misaligned accesses -/

theorem load_of_not_rotate {s : State} (h : s.cfg.misalign ≠ .rotate) (k : LoadKind) (a : Word) :
    s.load k a = (k.extend (s.memRead k.width a).1, (s.memRead k.width a).2) := by
  simp [State.load, h]

/-- An odd address is not that of a halfword (R73). -/
theorem not_aligned_half {a : Word} (h : a.getLsbD 0 = true) : Width.half.aligned a = false := by
  rw [Bool.eq_false_iff, ne_eq, aligned_iff, Width.bytes, BitVec.getLsbD, Nat.testBit_zero, decide_eq_true_eq] at *
  omega

theorem rotateRight_zero (v : Word) : v.rotateRight (8 * 0) = v := by
  apply BitVec.eq_of_getLsbD_eq
  intro j hj
  rw [getLsbD_rotateRight_eq_mod v _ hj, Nat.mul_zero, Nat.add_zero, Nat.mod_eq_of_lt hj]

/-- A word load rotates by the bytes its address is off (R73); by none when it is aligned. -/
theorem load_word_of_rotate {s : State} (h : s.cfg.misalign = .rotate) (a : Word) :
    s.load .word a = ((s.memRead .word a).1.rotateRight (8 * (a.toNat % 4)), (s.memRead .word a).2) := by
  have hlow : (a.extractLsb' 0 2).toNat = a.toNat % 4 := by simp
  cases ha : Width.word.aligned a with
  | true =>
    have hmod : a.toNat % 4 = 0 := (aligned_iff .word a).1 ha
    rw [load_of_aligned (k := .word) ha, hmod, rotateRight_zero]
    rfl
  | false => simp [State.load, h, LoadKind.width, ha, hlow]

/-- Settles O28: every access is made at the aligned address, and a word load that is rotated by no byte is not rotated. -/
theorem misalignedPolicies : Obligations.MisalignedPolicies := by
  intro s a v
  have hmask : a &&& ~~~ 3#32 = Width.word.alignDown a := rfl
  rw [hmask]
  refine ⟨fun w => (memWrite_alignDown s w a v).symm, fun n => ⟨(readWords_alignDown s a n).symm, length_readWords s a n,
    fun j => (s.readWords a j).2, rfl, rfl, fun j hj => ?_⟩, fun vs => ⟨?_, ?_⟩,
    fun hp k => ?_, fun hp => ⟨?_, fun hodd => ?_, fun hodd => ?_⟩⟩
  · rw [getD_readWords s a hj, memRead_word_byteAddr]
    exact Prod.ext rfl (congrArg Prod.snd (readWords_succ s a j)).symm
  · rw [writeWords_eq, writeWords_eq, alignDown_of_aligned (aligned_alignDown .word a)]
  · rw [writeWords_eq_foldl]
    simp only [memWrite_word_byteAddr]
  · rw [load_of_not_rotate (by rw [hp]; decide), load_of_not_rotate (by rw [hp]; decide), memRead_alignDown]
  · rw [memRead_alignDown]
    exact load_word_of_rotate hp a
  · have hmis : Width.half.aligned a = false := not_aligned_half hodd
    rw [show a &&& ~~~ 1#32 = Width.half.alignDown a from rfl, memRead_alignDown]
    simp [State.load, hp, LoadKind.width, hmis]
  · have hmis : Width.half.aligned a = false := not_aligned_half hodd
    have hbyte : Width.byte.aligned a = true := aligned_alignDown .byte a
    rw [load_of_aligned (k := .signedByte) hbyte]
    simp [State.load, hp, LoadKind.width, hmis]

end Sys2Proof.Machine
end

section
/-! PROOFS. Data processing (42_data_processing.md R180, R183, R186), the single transfers of both forms (45_transfers_single.md R251 to
R267, R350 to R374) and the swap (R291 to R294). An access of memory leaves the core; what follows it are register writes and the end
of the step, whose frames are proved already. -/

namespace Sys2Proof.Machine

open Sys2Proof

/-! ### Data processing -/

theorem phys_setFlagsIf (s : State) (asked : Bool) (f : Flags) (p : PhysReg) : (s.setFlagsIf asked f).phys p = s.phys p := by
  cases asked
  · rfl
  · exact phys_setFlags s f p

/-- What a data-processing instruction leaves beside its register: the flags if S asks, the advance and the cost (R183). -/
theorem setFlagsIf_frame {ds : List PhysReg} {s u : State} (h : RegistersWritten ds s u) (asked : Bool) (f : Flags) (cost : Nat) :
    let t := ((u.setFlagsIf asked f).setRawPc ((u.setFlagsIf asked f).pc + 4)).addCycles cost
    RegsBut ds s t ∧ t.cpsr = (if asked then withFlags s.cpsr f else s.cpsr) ∧ Sequential .wide cost s t ∧ RestSame s t := by
  obtain ⟨hregs, hcpsr, hend⟩ := setRawPc_addCycles_frame h .wide cost
  cases asked
  · exact ⟨hregs, hcpsr, hend⟩
  · exact ⟨fun p hp hds => (phys_congr rfl rfl p).trans (hregs p hp hds), congrArg (withFlags · f) hcpsr, hend⟩

/-- Settles O35: the compares write flags alone, the others one register before that. -/
theorem dataProcessing : Obligations.DataProcessing := by
  intro op c sb rn rd o s hc ho y cost
  have hallowed : operandRefused o rn rd = false := by
    cases o with
    | imm rotate imm8 => rfl
    | regImm amount ty rm => rfl
    | regReg rs ty rm =>
      obtain ⟨hrd, hrn, hrm, hrs⟩ := ho rs ty rm rfl
      simp [operandRefused, hrd, hrn, hrm, hrs]
  rw [exec_dataProc, dataProc, gate_of_passes _ hc, hallowed, refuseIf_false, ← compares_eq_true_iff]
  refine ⟨fun hop => ?_, fun hop hrd => ?_⟩
  · rw [if_pos hop]
    exact ⟨_, rfl, setFlagsIf_frame (registersWritten_refl s) true y.2 cost⟩
  · rw [if_neg hop, if_neg hrd]
    refine ⟨_, rfl, ?_, setFlagsIf_frame (registersWritten_setReg s y.1 hrd) sb y.2 cost⟩
    rw [phys_addCycles, phys_setRawPc, if_neg (physOf_ne_pc hrd), phys_setFlagsIf, phys_setReg_same s y.1 hrd]

/-! ### Accesses of memory -/

/-- `l` is `s` after accesses of memory: the registers, the status registers, `CYCLES` and the parameters are what they were. -/
structure Accessed (s l : State) : Prop where
  regs : l.regs = s.regs
  pc : l.pc = s.pc
  cpsr : l.cpsr = s.cpsr
  spsr : l.spsr = s.spsr
  cycles : l.cycles = s.cycles
  cfg : l.cfg = s.cfg

theorem accessed_load (s : State) (k : LoadKind) (a : Word) : Accessed s (s.load k a).2 := by constructor <;> simp
theorem accessed_readWords (s : State) (a : Word) (n : Nat) : Accessed s (s.readWords a n).2 := by constructor <;> simp
theorem accessed_memWrite (s : State) (w : Width) (a v : Word) : Accessed s (s.memWrite w a v) := by constructor <;> simp
theorem accessed_writeWords (s : State) (a : Word) (vs : List Word) : Accessed s (s.writeWords a vs) := by constructor <;> simp

theorem Accessed.trans {s l m : State} (hsl : Accessed s l) (hlm : Accessed l m) : Accessed s m :=
  ⟨hlm.regs.trans hsl.regs, hlm.pc.trans hsl.pc, hlm.cpsr.trans hsl.cpsr, hlm.spsr.trans hsl.spsr, hlm.cycles.trans hsl.cycles,
    hlm.cfg.trans hsl.cfg⟩

section

variable {s l t : State} (h : Accessed s l)

include h

theorem Accessed.phys (p : PhysReg) : l.phys p = s.phys p := phys_congr h.regs h.pc p

theorem Accessed.physOf (i : Reg) : physOf l.cpsr.m i = physOf s.cpsr.m i := by rw [h.cpsr]

theorem Accessed.regsBut {ds : List PhysReg} (ht : RegsBut ds l t) : RegsBut ds s t :=
  fun p hp hds => (ht p hp hds).trans (h.phys p)

theorem Accessed.sequential {f : Form} {cost : Nat} (ht : Sequential f cost l t) : Sequential f cost s t := by
  rwa [Sequential, h.pc, h.cycles] at ht

theorem Accessed.redirected {v : Word} {cost : Nat} (ht : Redirected v cost l t) : Redirected v cost s t := by
  rwa [Redirected, h.cycles] at ht

/-- After stores nothing is written but what the stores reached, if the step keeps the rest. -/
theorem Accessed.storedAs (ht : RestSame l t) : StoredAs l s t := by
  obtain ⟨hspsr, hie, hifr, hime, hhalted, hmem, hcfg, hdraws, hbus⟩ := ht
  exact ⟨hspsr.trans h.spsr, hcfg.trans h.cfg, hmem, hie, hifr, hime, hhalted, hdraws, hbus⟩

end

theorem RestSameButBus.of_restSame {s l t : State} (h : RestSameButBus s l) (ht : RestSame l t) :
    RestSameButBus s t ∧ t.draws = l.draws ∧ t.bus = l.bus := by
  simp_all [RestSameButBus, RestSame]

theorem BytesStored.of_restSame {n : Nat} {a v : Word} {s l t : State} (h : BytesStored n a v s l) (ht : RestSame l t) :
    BytesStored n a v s t := by
  obtain ⟨-, -, -, -, -, hmem, -⟩ := ht
  rwa [BytesStored, hmem]

theorem QuietStore.of_restSame {n : Nat} {a : Word} {s l t : State} (h : QuietStore n a s l) (ht : RestSame l t) :
    QuietStore n a s t := by
  obtain ⟨-, hie, hifr, hime, hhalted, -, -, hdraws, hbus⟩ := ht
  rwa [QuietStore, hie, hifr, hime, hhalted, hdraws, hbus]

/-! ### The load and the store of one register -/

/-- The register of a write-back, as a list. -/
def writtenBack (s : State) : Option (Reg × Word) → List PhysReg
  | none => []
  | some x => [physOf s.cpsr.m x.1]

theorem writtenBack_congr {s l : State} (h : l.cpsr = s.cpsr) (wb : Option (Reg × Word)) : writtenBack l wb = writtenBack s wb := by
  unfold writtenBack
  rw [h]

theorem registersWritten_writeBack (s : State) {wb : Option (Reg × Word)} (h : ∀ x, wb = some x → x.1 ≠ 15) :
    RegistersWritten (writtenBack s wb) s (s.writeBack wb) := by
  cases wb with
  | none => exact registersWritten_refl s
  | some x => exact registersWritten_setReg s x.2 (h x rfl)

theorem phys_writeBack (s : State) {rn : Reg} (v : Word) (h : rn ≠ 15) :
    (s.writeBack (some (rn, v))).phys (physOf s.cpsr.m rn) = v := phys_setReg_same s v h

/-- What a load of one register does (R254, R257, R262). -/
theorem loadInto_frame {f : Form} {k : LoadKind} {cost : Nat} {wb : Option (Reg × Word)} {rd : Reg} {a : Word} {s : State}
    (ha : s.misaligned k.width a = false) (hwb : ∀ x, wb = some x → x.1 ≠ 15) :
    ∃ t, loadInto f k cost wb rd a s = .next t ∧
      (rd ≠ 15 → t.phys (physOf s.cpsr.m rd) = (s.load k a).1 ∧ Sequential f cost s t) ∧
      (rd = 15 → Redirected (s.load k a).1 (cost + s.cfg.cost.loadPc) s t) ∧
      (∀ rn v, wb = some (rn, v) → rn ≠ rd → t.phys (physOf s.cpsr.m rn) = v) ∧
      RegsBut (physOf s.cpsr.m rd :: writtenBack s wb) s t ∧ t.cpsr = s.cpsr ∧
      RestSameButBus s t ∧ t.draws = (s.load k a).2.draws ∧ t.bus = (s.load k a).2.bus := by
  obtain ⟨v, l, hload⟩ : ∃ v l, s.load k a = (v, l) := ⟨_, _, rfl⟩
  have hl : Accessed s l := by simpa only [hload] using accessed_load s k a
  have hrest : RestSameButBus s l := by simpa only [hload] using restSameButBus_load s k a
  rw [hload]
  have hu := registersWritten_writeBack l hwb
  rw [writtenBack_congr hl.cpsr] at hu
  rw [loadInto, ha, refuseIf_false, hload]
  by_cases hrd : rd = 15
  · rw [if_pos hrd]
    obtain ⟨hregs, hcpsr, hend, hsame⟩ := branchTo_addCycles_frame hu v (cost + s.cfg.cost.loadPc)
    refine ⟨_, rfl, fun h => absurd hrd h, fun _ => hl.redirected hend, fun rn x hx hne => ?_, ?_, hcpsr.trans hl.cpsr,
      hrest.of_restSame hsame⟩
    · subst hx
      rw [phys_addCycles, phys_branchTo, if_neg (physOf_ne_pc (hwb _ rfl)), ← hl.physOf, phys_writeBack l x (hwb _ rfl)]
    · exact fun p hp hds => hl.regsBut hregs p hp fun h => hds (List.mem_cons_of_mem _ h)
  · rw [if_neg hrd]
    have hset := registersWritten_setReg (l.writeBack wb) v hrd
    have hphys : ((l.writeBack wb).setReg rd v).phys (physOf s.cpsr.m rd) = v := by
      rw [← hl.physOf, ← writeBack_cpsr l wb, phys_setReg_same _ v hrd]
    rw [writeBack_cpsr, hl.physOf] at hset
    obtain ⟨hregs, hcpsr, hend, hsame⟩ := setRawPc_addCycles_frame (hu.trans hset) f cost
    refine ⟨_, rfl, fun _ => ⟨?_, hl.sequential hend⟩, fun h => absurd h hrd, fun rn x hx hne => ?_, hl.regsBut hregs,
      hcpsr.trans hl.cpsr, hrest.of_restSame hsame⟩
    · rw [phys_addCycles, phys_setRawPc, if_neg (physOf_ne_pc hrd), hphys]
    · subst hx
      have hrn : rn ≠ 15 := hwb _ rfl
      rw [phys_addCycles, phys_setRawPc, if_neg (physOf_ne_pc hrn), phys_setReg_other, ← hl.physOf, phys_writeBack l x hrn]
      rw [writeBack_cpsr, hl.physOf]
      exact fun h => hne (physOf_inj.1 h)

/-- What a store of one register does (R254, R256, R257). -/
theorem storeFrom_frame {f : Form} {w : Width} {cost : Nat} {wb : Option (Reg × Word)} {rd : Reg} {a : Word} {s : State}
    (hm : s.memCanonical) (ha : s.misaligned w a = false) (hwb : ∀ x, wb = some x → x.1 ≠ 15) :
    ∃ t, storeFrom f w cost wb rd a s = .next t ∧ Sequential f cost s t ∧
      (∀ rn v, wb = some (rn, v) → t.phys (physOf s.cpsr.m rn) = v) ∧
      RegsBut (writtenBack s wb) s t ∧ t.cpsr = s.cpsr ∧ StoredAs (s.memWrite w a (s.rdOp f rd)) s t ∧
      BytesStored w.bytes (w.alignDown a) (s.rdOp f rd) s t ∧ QuietStore w.bytes (w.alignDown a) s t := by
  have hl := accessed_memWrite s w a (s.rdOp f rd)
  have hstored := bytesStored_memWrite s w a (s.rdOp f rd) hm
  have hquiet := quietStore_memWrite s w a (s.rdOp f rd)
  have hu := registersWritten_writeBack (s.memWrite w a (s.rdOp f rd)) hwb
  rw [writtenBack_congr hl.cpsr] at hu
  obtain ⟨hregs, hcpsr, hend, hsame⟩ := setRawPc_addCycles_frame hu f cost
  rw [storeFrom, ha, refuseIf_false]
  refine ⟨_, rfl, hl.sequential hend, fun rn x hx => ?_, hl.regsBut hregs, hcpsr.trans hl.cpsr, hl.storedAs hsame,
    hstored.of_restSame hsame, hquiet.of_restSame hsame⟩
  subst hx
  rw [phys_addCycles, phys_setRawPc, if_neg (physOf_ne_pc (hwb _ rfl)), ← hl.physOf, phys_writeBack _ x (hwb _ rfl)]

/-! ### The single transfers of both forms -/

/-- The width of an access. -/
def Access.width : Access → Width
  | .load k => k.width
  | .store w => w

/-- The transfer of one register, load or store. -/
def transfer (f : Form) (acc : Access) (cost : Nat) (wb : Option (Reg × Word)) (rd : Reg) (a : Word) (s : State) : Out :=
  match acc with
  | .load k => loadInto f k cost wb rd a s
  | .store w => storeFrom f w cost wb rd a s

/-- A misaligned transfer is refused under the default policy (R73). -/
theorem transfer_of_misaligned {s : State} {acc : Access} {a : Word} (h : s.misaligned acc.width a = true) (f : Form) (cost : Nat)
    (wb : Option (Reg × Word)) (rd : Reg) : transfer f acc cost wb rd a s = .fault .misaligned := by
  cases acc with
  | load k => rw [transfer, loadInto, show s.misaligned k.width a = true from h, refuseIf_true]
  | store w => rw [transfer, storeFrom, show s.misaligned w a = true from h, refuseIf_true]

/-- The write-back of a wide single transfer (R251). -/
def Single.writeBack (x : Single) (s : State) : Option (Reg × Word) := if x.wb then some (x.rn, x.ea s) else none

/-- Every wide single transfer is its gate, its refusal and its transfer (R251, R255). -/
theorem exec_of_singleOf {i : Instr} {s : State} {x : Single} (h : singleOf i s = some x) :
    exec i s = gate x.c s (refuseIf (x.rn == 15 && x.wb) .baseR15WithWriteback
      (transfer .wide x.acc (x.acc.cost s.cfg.cost) (x.writeBack s) x.rd (x.addr s) s)) := by
  unfold singleOf at h
  split at h <;> cases h <;> rfl

theorem zext_shiftLeft_one {k : Nat} (x : BitVec k) : zext x <<< 1 = 2 * zext x := by
  rw [BitVec.shiftLeft_eq_mul_twoPow, BitVec.mul_comm]; rfl

theorem zext_shiftLeft_two {k : Nat} (x : BitVec k) : zext x <<< 2 = 4 * zext x := by
  rw [BitVec.shiftLeft_eq_mul_twoPow, BitVec.mul_comm]; rfl

/-- Every narrow single transfer is its transfer, at the address its format gives (R350 to R374). -/
theorem exec_of_narrowSingleOf {i : Instr} {s : State} {x : NarrowSingle} (h : narrowSingleOf i s = some x) :
    exec i s = transfer .narrow x.acc (x.acc.cost s.cfg.cost) none x.rd.toReg x.addr s := by
  unfold narrowSingleOf at h
  simp only [← zext_shiftLeft_one, ← zext_shiftLeft_two] at h
  split at h <;> cases h <;> rfl

/-- Settles O50: a narrow load is the load of one register without write-back. -/
theorem narrowLoads : Obligations.NarrowLoads := by
  intro i s x k hx hk ha
  rw [exec_of_narrowSingleOf hx, hk]
  obtain ⟨t, ht, hvalue, -, -, hregs, hrest⟩ := loadInto_frame (f := .narrow) (cost := (Access.load k).cost s.cfg.cost)
    (wb := none) (rd := x.rd.toReg) ha (fun _ h => nomatch h)
  obtain ⟨hphys, hseq⟩ := hvalue (toReg_ne_15 x.rd)
  obtain ⟨hcpsr, hrest⟩ := hrest
  exact ⟨t, ht, hphys, hregs, hcpsr, hseq, hrest⟩

/-- Settles O51: a narrow store is the store of one register without write-back. -/
theorem narrowStores : Obligations.NarrowStores := by
  intro i s x w hm hx hw ha
  rw [exec_of_narrowSingleOf hx, hw, ← rdOp_of_ne s .narrow (toReg_ne_15 x.rd)]
  obtain ⟨t, ht, hseq, -, hrest⟩ := storeFrom_frame (f := .narrow) (cost := (Access.store w).cost s.cfg.cost)
    (wb := none) (rd := x.rd.toReg) hm ha (fun _ h => nomatch h)
  exact ⟨t, ht, hseq, hrest⟩

section

variable {x : Single} {s : State}

theorem writtenBack_writeBack : writtenBack s (x.writeBack s) = if x.wb then [physOf s.cpsr.m x.rn] else [] := by
  unfold Single.writeBack
  split <;> rfl

theorem writeBack_reg_ne (h : ¬ (x.rn = 15 ∧ x.wb = true)) (y : Reg × Word) (hy : x.writeBack s = some y) : y.1 ≠ 15 := by
  unfold Single.writeBack at hy
  split at hy
  · cases hy
    exact fun hrn => h ⟨hrn, ‹_›⟩
  · cases hy

/-- A wide single transfer that is neither skipped nor refused (R251, R255). -/
theorem exec_eq_transfer {i : Instr} (hx : singleOf i s = some x) (hc : s.passes x.c = true) (hrn : ¬ (x.rn = 15 ∧ x.wb = true)) :
    exec i s = transfer .wide x.acc (x.acc.cost s.cfg.cost) (x.writeBack s) x.rd (x.addr s) s := by
  have hallowed : (x.rn == 15 && x.wb) = false := by simpa using hrn
  rw [exec_of_singleOf hx, gate_of_passes _ hc, hallowed, refuseIf_false]

end

/-- Settles O42: behind its gate and its refusal a wide load is the load of one register. -/
theorem wideLoads : Obligations.WideLoads := by
  intro i s x k hx hk hc hrn ha
  obtain ⟨t, ht, hvalue, hpc, hwb, hregs, hrest⟩ := loadInto_frame (f := .wide) (cost := (Access.load k).cost s.cfg.cost)
    (rd := x.rd) ha (writeBack_reg_ne (s := s) hrn)
  rw [writtenBack_writeBack] at hregs
  rw [exec_eq_transfer hx hc hrn, hk]
  exact ⟨t, ht, hvalue, hpc, fun h => hwb x.rn (x.ea s) (if_pos h), hregs, hrest⟩

/-- Settles O43: behind its gate and its refusal a wide store is the store of one register. -/
theorem wideStores : Obligations.WideStores := by
  intro i s x w hm hx hw hc hrn ha v
  obtain ⟨t, ht, hseq, hwb, hregs, hrest⟩ := storeFrom_frame (f := .wide) (cost := (Access.store w).cost s.cfg.cost)
    (rd := x.rd) hm ha (writeBack_reg_ne (s := s) hrn)
  rw [writtenBack_writeBack] at hregs
  rw [exec_eq_transfer hx hc hrn, hw]
  exact ⟨t, ht, hseq, fun h => hwb x.rn (x.ea s) (if_pos h), hregs, hrest⟩

/-! ### The swap -/

theorem BytesStored.of_accessed {n : Nat} {a v : Word} {s l m : State} (hcfg : l.cfg = s.cfg) (hmem : l.mem = s.mem)
    (h : BytesStored n a v l m) : BytesStored n a v s m := by
  simp only [BytesStored, kind_congr hcfg, hmem] at h
  exact h

/-- What a swap reads leaves the state that its access leaves, rotated or not (R73, R292). -/
theorem load_snd_of_swap (s : State) {k : LoadKind} (hk : k = .word ∨ k = .byte) (a : Word) :
    (s.load k a).2 = (s.memRead k.width a).2 := by
  unfold State.load
  rcases hk with rfl | rfl <;> split <;> rfl

/-- Settles O47: the write goes to the state the read left, which differs from the one before it only if a byte belongs to a
device. -/
theorem swaps : Obligations.Swaps := by
  intro byte c rn rd rm s hm hc hrn hrd hrm k ha
  have hexec : exec (if byte then .swpb c rn rd rm else .swp c rn rd rm) s = swap k c rn rd rm s := by cases byte <;> rfl
  have hk : k = .word ∨ k = .byte := by
    cases byte
    · exact .inl rfl
    · exact .inr rfl
  have hrefused : (rn == 15 || rd == 15 || rm == 15) = false := by simp [hrn, hrd, hrm]
  rw [hexec, swap, gate_of_passes _ hc, hrefused, refuseIf_false, ha, refuseIf_false]
  obtain ⟨v, l, hload⟩ : ∃ v l, s.load k (s.reg rn) = (v, l) := ⟨_, _, rfl⟩
  have hl : Accessed s l := by simpa only [hload] using accessed_load s k (s.reg rn)
  have hlmem : l.mem = s.mem := by simpa only [hload] using load_mem s k (s.reg rn)
  have hsnd : l = (s.memRead k.width (s.reg rn)).2 := by simpa only [hload] using load_snd_of_swap s hk (s.reg rn)
  have hw := accessed_memWrite l k.width (s.reg rn) (s.reg rm)
  have hm' := hl.trans hw
  have hset := registersWritten_setReg (l.memWrite k.width (s.reg rn) (s.reg rm)) v hrd
  rw [hload]
  obtain ⟨hregs, hcpsr, hend, hsame⟩ := setRawPc_addCycles_frame hset .wide s.cfg.cost.swap
  rw [hm'.physOf] at hregs
  refine ⟨_, rfl, ?_, hm'.regsBut hregs, hcpsr.trans hm'.cpsr, hm'.sequential hend, hm'.storedAs hsame, ?_, ?_⟩
  · rw [phys_addCycles, phys_setRawPc, if_neg (physOf_ne_pc hrd), ← hm'.physOf, phys_setReg_same _ v hrd]
  · exact ((bytesStored_memWrite l k.width (s.reg rn) (s.reg rm) (by rwa [hlmem])).of_accessed hl.cfg hlmem).of_restSame hsame
  · refine QuietStore.of_restSame (fun hq => ?_) hsame
    have hls : l = s := hsnd.trans (readBytes_state s _ _ fun j hj => (hq j hj).2)
    rw [hls]
    exact quietStore_memWrite s k.width (s.reg rn) (s.reg rm) hq

/-! ### Refused registers -/

/-- Settles O56. -/
theorem refusedRegisters : Obligations.RefusedRegisters := by
  intro c sb s hc
  have hgate (k : Out) : gate c s k = k := gate_of_passes k hc
  refine ⟨fun op rn rd rs ty rm h => ?_, fun rd rn rs rm h => ?_, fun rd rn rs rm h => ?_, fun sgn acc rdHi rdLo rs rm h => ?_,
    fun sgn acc rd rs rm hrd hrm hrs => ?_, fun rn rd rm h => ?_⟩
  · have hrefused : operandRefused (.regReg rs ty rm) rn rd = true := by simpa [operandRefused, or_assoc] using h
    rw [exec_dataProc, dataProc, hgate, hrefused, refuseIf_true]
  · have hrefused : (rd == 15 || rm == 15 || rs == 15) = true := by simpa [or_assoc] using h
    rw [exec, execMul, multiply, hgate, hrefused, refuseIf_true]
  · have hrefused : (rd == 15 || rm == 15 || rs == 15 || rn == 15) = true := by simpa [or_assoc] using h
    rw [exec, execMla, multiply, hgate, hrefused, refuseIf_true]
  · have hrefused : (rdHi == 15 || rdLo == 15 || rm == 15 || rs == 15) = true := by simpa [or_assoc] using h
    rw [exec_longMultiplyOf, multiplyLong, hgate, hrefused, refuseIf_true]
  · have hallowed : (rd == 15 || rd == 15 || rm == 15 || rs == 15) = false := by simp [hrd, hrm, hrs]
    rw [exec_longMultiplyOf, multiplyLong, hgate, hallowed, refuseIf_false, beq_self_eq_true, refuseIf_true]
  · have hrefused : (rn == 15 || rd == 15 || rm == 15) = true := by simpa [or_assoc] using h
    constructor
    · rw [exec, execSwp, swap, hgate, hrefused, refuseIf_true]
    · rw [exec, execSwpb, swap, hgate, hrefused, refuseIf_true]

end Sys2Proof.Machine
end

section
/-! PROOFS. The block transfers of both forms (46_transfers_block_swap.md R281 to R289, R382 to R386), and the refusals of transfers
and of restores (R33, R38, R73, R255, R289, R381). The registers of a list are in the order of their numbers, so register `i` has its
place at its rank; what the meaning does with lists is then stated register by register. -/

namespace Sys2Proof.Machine

open Sys2Proof

/-! ### The place of a register in a list -/

/-- An element that passes a filter stands behind those below it that pass. -/
theorem getElem?_filter_range (p : Nat → Bool) {i n : Nat} (hi : i < n) (hp : p i = true) :
    ((List.range n).filter p)[(List.range i).countP p]? = some i := by
  induction n with
  | zero => omega
  | succ n ih =>
    rw [List.range_succ, List.filter_append]
    by_cases hin : i < n
    · have h := ih hin
      obtain ⟨hlt, -⟩ := List.getElem?_eq_some_iff.1 h
      rw [List.getElem?_append_left hlt, h]
    · obtain rfl : i = n := by omega
      rw [List.countP_eq_length_filter, List.getElem?_append_right (le_refl _), Nat.sub_self, List.filter_cons_of_pos hp]
      rfl

theorem map_val_regsOf (list : BitVec 16) :
    (regsOf list).map Fin.val = (List.range 16).filter fun j => list.getLsbD j := by
  rw [regsOf, show List.range 16 = allRegs.map Fin.val from rfl, List.filter_map]
  rfl

theorem length_regsOf (list : BitVec 16) : (regsOf list).length = rankIn list 16 := by
  rw [← List.length_map (f := Fin.val), map_val_regsOf, rankIn, List.countP_eq_length_filter]

/-- Register `i` of a list has its rank as its place (R281). -/
theorem getElem?_regsOf {list : BitVec 16} {i : Reg} (h : list.getLsbD i.val = true) :
    (regsOf list)[rankIn list i.val]? = some i := by
  have hval := getElem?_filter_range (fun j => list.getLsbD j) i.isLt h
  rw [← map_val_regsOf, List.getElem?_map] at hval
  obtain ⟨k, hk, hki⟩ := Option.map_eq_some_iff.1 hval
  rw [rankIn, hk, Fin.ext hki]

theorem rankIn_lt {list : BitVec 16} {i : Reg} (h : list.getLsbD i.val = true) : rankIn list i.val < rankIn list 16 := by
  rw [← length_regsOf]
  exact (List.getElem?_eq_some_iff.1 (getElem?_regsOf h)).1

theorem mem_regsOf {list : BitVec 16} {i : Reg} : i ∈ regsOf list ↔ list.getLsbD i.val = true := by
  have hall : i ∈ allRegs := by revert i; decide
  rw [regsOf, List.mem_filter, and_iff_right hall]

theorem nodup_regsOf (list : BitVec 16) : (regsOf list).Nodup := List.Nodup.filter _ (by decide)

/-- The lowest register of a list is the one of rank 0 (R289). -/
theorem lowestIs_iff {list : BitVec 16} {i : Reg} (h : list.getLsbD i.val = true) :
    lowestIs list i = true ↔ rankIn list i.val = 0 := by
  have hi := getElem?_regsOf h
  rw [lowestIs, beq_iff_eq, List.head?_eq_getElem?]
  constructor
  · intro hzero
    have hlt := (List.getElem?_eq_some_iff.1 hzero).1
    exact ((List.getElem?_inj hlt (nodup_regsOf list)).1 (hzero.trans hi.symm)).symm
  · intro hzero
    rwa [hzero] at hi

/-- The last word of a run is that of r15, if r15 is in the list (R286). -/
theorem lastWord_eq_getD {list : BitVec 16} (h : list.getLsbD 15 = true) {vs : List Word} (hvs : vs.length = rankIn list 16) :
    lastWord vs = vs.getD (rankIn list 15) 0 := by
  have hlast : rankIn list 16 = rankIn list 15 + 1 := by
    rw [rankIn, List.range_succ, List.countP_append, List.countP_singleton, if_pos h]
    rfl
  rw [lastWord, List.getLast?_eq_getElem?, hvs, hlast, Nat.add_sub_cancel, List.getD_eq_getElem?_getD]

/-! ### Block transfers by their fields -/

theorem lowList_lr (list : BitVec 8) (lr : Bool) : lowList list lr false = list.setWidth 16 ||| putBit 16 14 lr := by
  rw [lowList, putField, BitVec.shiftLeft_zero, show putBit 16 15 false = 0#16 from rfl, BitVec.or_zero]

theorem lowList_low (list : BitVec 8) : lowList list false false = list.setWidth 16 := by
  rw [lowList_lr, show putBit 16 14 false = 0#16 from rfl, BitVec.or_zero]

theorem lowList_pc (list : BitVec 8) : lowList list false true = list.setWidth 16 ||| 0x8000#16 := by
  rw [lowList, putField, BitVec.shiftLeft_zero, show putBit 16 14 false = 0#16 from rfl, BitVec.or_zero]
  rfl

/-- Every block transfer is its gate and the block load or the block store of its fields. -/
theorem exec_of_blockOf {i : Instr} {c : Cond} {x : Block} (h : blockOf i = some (c, x)) (s : State) :
    exec i s = gate c s (if x.store then blockStore x.f x.p x.u x.sb x.w x.rn x.list s
      else blockLoad x.f x.p x.u x.sb x.w x.rn x.list s) := by
  unfold blockOf at h
  split at h <;> cases h
  · rfl
  · rfl
  all_goals rw [gate_of_passes _ (passes_al s)]
  · rw [← lowList_lr]; rfl
  · rw [← lowList_low]; rfl
  · rw [← lowList_pc]; rfl
  · rw [← lowList_low]; rfl
  · rw [← lowList_low]; rfl

theorem length_regsOf_list (x : Block) : (regsOf x.list).length = x.n := length_regsOf x.list

theorem blockStart_eq (x : Block) (s : State) : blockStart x.p x.u (s.reg x.rn) x.n = x.start s := by
  rw [blockStart, Block.start]
  cases x.u <;> cases x.p <;> rfl

theorem blockFinal_eq (x : Block) (s : State) : blockFinal x.u (s.reg x.rn) x.n = x.final s := rfl

/-- What a transfer that is not refused fulfils (R289). -/
theorem Block.refused_eq_false {x : Block} (h : x.refused = false) :
    (x.list == 0) = false ∧ (x.rn == 15) = false ∧ (x.user && x.w) = false ∧
      (x.w && x.list.getLsbD x.rn.val && !(x.store && rankIn x.list x.rn.val == 0)) = false := by
  simpa only [Block.refused, Bool.or_eq_false_iff, and_assoc] using h

/-! ### The register writes of a block load -/

/-- A listed register other than r15 holds the word that stands beside it (R284, R287). -/
theorem phys_setBlock_of_mem (s : State) (user : Bool) {l : List (Reg × Word)} (hl : (l.map Prod.fst).Nodup) {i : Reg} {v : Word}
    (h : (i, v) ∈ l) (hi : i ≠ 15) :
    (s.setBlock user l).phys (physOf (if user then Mode.usr.bits else s.cpsr.m) i) = v := by
  induction l generalizing s with
  | nil => cases h
  | cons x l ih =>
    obtain ⟨hx, hl⟩ := List.nodup_cons.1 hl
    rw [State.setBlock]
    rcases List.mem_cons.1 h with rfl | htail
    · have hother : ∀ y ∈ l, i ≠ y.1 := fun y hy e => hx (List.mem_map.2 ⟨y, hy, e.symm⟩)
      rw [if_neg hi, phys_setBlock_other]
      · cases user
        · exact phys_setReg_same s v hi
        · exact phys_setPhys_same s v (physOf_ne_pc hi)
      · intro y hy _ e
        refine hother y hy (physOf_inj.1 (e.trans ?_))
        cases user
        · simp
        · rfl
    · rw [← ih _ hl htail]
      congr 2
      cases user
      · by_cases hx15 : x.1 = 15 <;> simp [hx15]
      · rfl

theorem registersWritten_setBlock (s : State) (user : Bool) (l : List (Reg × Word)) :
    RegistersWritten (l.map fun y => physOf (if user then Mode.usr.bits else s.cpsr.m) y.1) s (s.setBlock user l) := by
  refine ⟨fun p _ hp => phys_setBlock_other s user l fun y hy _ e => hp (List.mem_map.2 ⟨y, hy, e.symm⟩), setBlock_pc ..,
    setBlock_cpsr .., setBlock_cycles .., ?_⟩
  simp [RestSame]

/-- The write-back of a block transfer (R281). -/
def Block.writeBack (x : Block) (s : State) : Option (Reg × Word) := if x.w then some (x.rn, x.final s) else none

theorem Block.ite_eq_writeBack (x : Block) (s l : State) :
    (if x.w then l.setReg x.rn (x.final s) else l) = l.writeBack (x.writeBack s) := by
  unfold Block.writeBack
  split <;> rfl

theorem Block.writtenBack_writeBack (x : Block) (s : State) :
    writtenBack s (x.writeBack s) = if x.w then [physOf s.cpsr.m x.rn] else [] := by
  unfold Block.writeBack
  split <;> rfl

theorem Block.writeBack_reg_ne {x : Block} {s : State} (hrn : x.rn ≠ 15) (y : Reg × Word) (hy : x.writeBack s = some y) :
    y.1 ≠ 15 := by
  unfold Block.writeBack at hy
  split at hy
  · cases hy
    exact hrn
  · cases hy

/-- The state a block load ends from: read, written back, and the listed registers written (R284). -/
def Block.loaded (x : Block) (s : State) : State :=
  ((s.readWords (x.start s) x.n).2.writeBack (x.writeBack s)).setBlock x.user
    ((regsOf x.list).zip (s.readWords (x.start s) x.n).1)

/-- What a block load does to the registers other than r15 (R281, R284, R287). -/
def LoadsList (x : Block) (s t : State) : Prop :=
  (∀ r : Reg, x.list.getLsbD r.val = true → r ≠ 15 →
    t.phys (x.phys s r) = (s.readWords (x.start s) x.n).1.getD (rankIn x.list r.val) 0) ∧
  (x.w = true → t.phys (physOf s.cpsr.m x.rn) = x.final s) ∧
  ∀ p : PhysReg, p ≠ .pc → (x.w = true → p ≠ physOf s.cpsr.m x.rn) →
    (∀ r : Reg, x.list.getLsbD r.val = true → p ≠ x.phys s r) → t.phys p = s.phys p

/-- Only the registers other than r15 count. -/
theorem LoadsList.of_regsBut {x : Block} {s u t : State} (h : LoadsList x s u) (ht : RegsBut [] u t) (hrn : x.rn ≠ 15) :
    LoadsList x s t := by
  obtain ⟨hlist, hbase, hother⟩ := h
  have hphys (p : PhysReg) (hp : p ≠ .pc) : t.phys p = u.phys p := ht p hp List.not_mem_nil
  exact ⟨fun r hr h15 => (hphys _ (physOf_ne_pc h15)).trans (hlist r hr h15),
    fun hw => (hphys _ (physOf_ne_pc hrn)).trans (hbase hw),
    fun p hp hw hl => (hphys p hp).trans (hother p hp hw hl)⟩

/-- A block load that is not refused (R289). -/
structure Block.Loads (x : Block) : Prop where
  store : x.store = false
  list : (x.list == 0) = false
  rn : x.rn ≠ 15
  user : x.user = true → x.w = false
  base : x.w = true → x.list.getLsbD x.rn.val = false

theorem Block.loads_of_not_refused {x : Block} (hstore : x.store = false) (h : x.refused = false) : x.Loads := by
  obtain ⟨hlist, hrn, huser, hbase⟩ := Block.refused_eq_false h
  exact ⟨hstore, hlist, by simpa using hrn, by simpa using huser, by simpa [hstore] using hbase⟩

theorem fst_zip_readWords (x : Block) (s : State) (a : Word) :
    ((regsOf x.list).zip (s.readWords a x.n).1).map Prod.fst = regsOf x.list :=
  List.map_fst_zip (by rw [length_regsOf_list, length_readWords])

section

variable {x : Block} {s : State} (hx : x.Loads)

include hx

theorem loadsList_loaded : LoadsList x s (x.loaded s) := by
  have hl := accessed_readWords s (x.start s) x.n
  have hview : (if x.user then Mode.usr.bits else ((s.readWords (x.start s) x.n).2.writeBack (x.writeBack s)).cpsr.m) =
      if x.user then Mode.usr.bits else s.cpsr.m := by rw [writeBack_cpsr, hl.cpsr]
  have hback {p : PhysReg} (hp : x.w = true → p ≠ physOf s.cpsr.m x.rn) :
      ((s.readWords (x.start s) x.n).2.writeBack (x.writeBack s)).phys p = s.phys p := by
    unfold Block.writeBack
    split
    · exact (phys_setReg_other _ _ (by rw [hl.physOf]; exact hp ‹_›)).trans (hl.phys p)
    · exact hl.phys p
  have hlisted {y : Reg × Word} (hy : y ∈ (regsOf x.list).zip (s.readWords (x.start s) x.n).1) :
      x.list.getLsbD y.1.val = true := mem_regsOf.1 (List.of_mem_zip hy).1
  refine ⟨fun r hr h15 => ?_, fun hw => ?_, fun p hp hw hl => ?_⟩
  · rw [Block.phys, ← hview]
    refine phys_setBlock_of_mem _ _ (by rw [fst_zip_readWords]; exact nodup_regsOf _) ?_ h15
    rw [List.mem_iff_getElem?]
    refine ⟨rankIn x.list r.val, ?_⟩
    have hlt : rankIn x.list r.val < (s.readWords (x.start s) x.n).1.length := by
      rw [length_readWords]
      exact rankIn_lt hr
    rw [List.getElem?_zip_eq_some, getElem?_regsOf hr, List.getD_eq_getElem?_getD, List.getElem?_eq_getElem hlt]
    exact ⟨rfl, rfl⟩
  · have huser : x.user = false := by
      by_contra hu
      simp [hx.user (by simpa using hu)] at hw
    rw [Block.loaded, phys_setBlock_other, Block.writeBack, if_pos hw, ← hl.physOf, phys_writeBack _ _ hx.rn]
    intro y hy _ e
    rw [hview, huser, if_neg Bool.false_ne_true, physOf_inj] at e
    have := hx.base hw
    rw [e, hlisted hy] at this
    cases this
  · rw [Block.loaded, phys_setBlock_other, hback hw]
    intro y hy _
    rw [hview]
    exact hl y.1 (hlisted hy)

theorem Block.user_eq : x.user = (x.sb && !x.list.getLsbD 15) := by rw [Block.user, hx.store, Bool.false_or]

/-- Beside the registers a block load leaves what its reads leave. -/
theorem registersWritten_loaded : ∃ ds, RegistersWritten ds (s.readWords (x.start s) x.n).2 (x.loaded s) := by
  exact ⟨_, (registersWritten_writeBack _ (Block.writeBack_reg_ne hx.rn)).trans (registersWritten_setBlock _ _ _)⟩

/-- A block load that is not refused, by the state it ends from (R286, R288). -/
theorem blockLoad_eq (ha : s.misaligned .word (x.start s) = false) :
    blockLoad x.f x.p x.u x.sb x.w x.rn x.list s =
      if x.list.getLsbD 15 then
        if x.sb then s.exceptionReturn (x.loaded s) (lastWord (s.readWords (x.start s) x.n).1)
          (s.cfg.cost.ldmBase + x.n + s.cfg.cost.loadPc)
        else (x.loaded s).finishAt (lastWord (s.readWords (x.start s) x.n).1)
          (s.cfg.cost.ldmBase + x.n + s.cfg.cost.loadPc)
      else (x.loaded s).finish x.f (s.cfg.cost.ldmBase + x.n) := by
  have huser : (x.user && x.w) = false := by simpa using hx.user
  have hbase : (x.w && x.list.getLsbD x.rn.val) = false := by simpa using hx.base
  simp only [blockLoad, length_regsOf_list, blockStart_eq, blockFinal_eq, Block.ite_eq_writeBack, ← Block.user_eq hx, huser, hbase,
    hx.list, beq_eq_false_iff_ne.2 hx.rn, ha, refuseIf_false]
  rfl

end

/-- Settles O44: the load ends from the state in which the registers are written, by an advance or, with r15 in the list, by a
branch to the last word. -/
theorem blockLoads : Obligations.BlockLoads := by
  intro i c x s hi hstore hc hrefused ha hreturn vs cost
  have hx := Block.loads_of_not_refused hstore hrefused
  have hl := accessed_readWords s (x.start s) x.n
  have hbus := restSameButBus_readWords s (x.start s) x.n
  obtain ⟨ds, hu⟩ := registersWritten_loaded (s := s) hx
  have hlist := loadsList_loaded (s := s) hx
  rw [exec_of_blockOf hi, gate_of_passes _ hc, hstore, if_neg Bool.false_ne_true, blockLoad_eq hx ha]
  cases h15 : x.list.getLsbD 15 with
  | false =>
    obtain ⟨-, hcpsr, hend, hsame⟩ := setRawPc_addCycles_frame hu x.f cost
    obtain ⟨hregs, -⟩ := setRawPc_addCycles_frame (registersWritten_refl (x.loaded s)) x.f cost
    obtain ⟨hvalues, hbase, hother⟩ := hlist.of_regsBut hregs hx.rn
    exact ⟨_, rfl, hvalues, hbase, hother, (fun h => nomatch h), fun _ => hl.sequential hend, hcpsr.trans hl.cpsr,
      hbus.of_restSame hsame⟩
  | true =>
    have hsb : x.sb = false := by simpa [h15] using hreturn
    rw [hsb, lastWord_eq_getD h15 (length_readWords s (x.start s) x.n)]
    obtain ⟨-, hcpsr, hend, hsame⟩ := branchTo_addCycles_frame hu (vs.getD (rankIn x.list 15) 0) (cost + s.cfg.cost.loadPc)
    obtain ⟨hregs, -⟩ := branchTo_addCycles_frame (registersWritten_refl (x.loaded s)) (vs.getD (rankIn x.list 15) 0)
      (cost + s.cfg.cost.loadPc)
    obtain ⟨hvalues, hbase, hother⟩ := hlist.of_regsBut hregs hx.rn
    exact ⟨_, rfl, hvalues, hbase, hother, fun _ => hl.redirected hend, (fun h => nomatch h), hcpsr.trans hl.cpsr,
      hbus.of_restSame hsame⟩

theorem RestSame.trans {s u t : State} (hsu : RestSame s u) (hut : RestSame u t) : RestSame s t := by
  simp_all [RestSame]

/-- Settles O45: the registers are those of the mode in force, since with r15 in the list the S bit asks for the return. -/
theorem blockExceptionReturn : Obligations.BlockExceptionReturn := by
  intro i c x s e md hi hstore hc hrefused ha hsb h15 he hmd vs
  have hx := Block.loads_of_not_refused hstore hrefused
  have hl := accessed_readWords s (x.start s) x.n
  have hbus := restSameButBus_readWords s (x.start s) x.n
  obtain ⟨ds, -, -, hcpsr, hcycles, hrest⟩ := registersWritten_loaded (s := s) hx
  have hspsr : (x.loaded s).spsr = s.spsr := hrest.1.trans hl.spsr
  have hlegal : (Mode.ofBits (s.spsr.get e).m).isSome = true := by rw [hmd, Option.isSome_some]
  have hview (r : Reg) : x.phys s r = physOf s.cpsr.m r := by
    rw [Block.phys, Block.user_eq hx, h15, Bool.not_true, Bool.and_false, if_neg Bool.false_ne_true]
  obtain ⟨hcpsr', hregs, ⟨hpc, hcycles'⟩, hsame⟩ := setCpsr_branchTo_frame (x.loaded s) ((x.loaded s).spsr.get e)
    (vs.getD (rankIn x.list 15) 0) (s.cfg.cost.ldmBase + x.n + s.cfg.cost.loadPc)
  obtain ⟨hvalues, hbase, hother⟩ := (loadsList_loaded hx).of_regsBut hregs hx.rn
  simp only [hview] at hvalues hother
  rw [exec_of_blockOf hi, gate_of_passes _ hc, hstore, if_neg Bool.false_ne_true, blockLoad_eq hx ha, if_pos h15, if_pos hsb,
    lastWord_eq_getD h15 (length_readWords s (x.start s) x.n)]
  refine ⟨_, (exceptionReturn_eq_next ?_).2 ⟨e, he, hlegal, rfl⟩, hvalues, hbase, hother, ?_, ⟨hpc, ?_⟩,
    hbus.of_restSame (hrest.trans hsame)⟩
  · rw [hcpsr, hl.cpsr]
  · rw [hcpsr', hspsr]
  · rw [hcycles', hcycles, hl.cycles]

/-! ### Block stores -/

/-- Byte `k` of word `j` of a run (R65, R281). -/
theorem getElem?_flatMap_splitBytes (vs : List Word) (j : Nat) {k : Nat} (hk : k < 4) :
    (vs.flatMap fun v => splitBytes v 4)[4 * j + k]? = vs[j]?.map fun v : Word => (v >>> (8 * k)).setWidth 8 := by
  induction vs generalizing j with
  | nil => rfl
  | cons v vs ih =>
    rw [List.flatMap_cons]
    cases j with
    | zero =>
      rw [Nat.mul_zero, Nat.zero_add, List.getElem?_append_left (by simpa using hk), splitBytes_eq_map_range, List.getElem?_map,
        List.getElem?_range hk]
      rfl
    | succ j =>
      rw [List.getElem?_append_right (by simp; omega), length_splitBytes, show 4 * (j + 1) + k - 4 = 4 * j + k by omega, ih]
      rfl

/-- Each byte of a run of words that lies in RAM is stored (R63, R65, R285). -/
theorem writeWords_read_same {s : State} {a : Word} {vs : List Word} (hm : s.memCanonical) (hlen : vs.length ≤ 16) {j k : Nat}
    {v : Word} (hj : vs[j]? = some v) (hk : k < 4)
    (hram : s.kind (byteAddr (Width.word.alignDown (byteAddr a (4 * j))) k) = .ram) :
    (s.writeWords a vs).mem.read (byteAddr (Width.word.alignDown (byteAddr a (4 * j))) k).toNat = (v >>> (8 * k)).setWidth 8 := by
  rw [alignDown_word_byteAddr, ← byteAddr_add] at hram ⊢
  have hbyte := getElem?_flatMap_splitBytes vs j hk
  rw [hj] at hbyte
  obtain ⟨hlt, hvalue⟩ := List.getElem?_eq_some_iff.1 hbyte
  rw [writeWords_eq, writeBytes_read_same s _ _ hm (by rw [length_flatMap_splitBytes]; omega) hlt hram, hvalue]

/-- A block store that is not refused (R285, R289). -/
theorem blockStore_eq {x : Block} {s : State} (hstore : x.store = true) (hrefused : x.refused = false)
    (ha : s.misaligned .word (x.start s) = false) :
    blockStore x.f x.p x.u x.sb x.w x.rn x.list s =
      ((s.writeWords (x.start s) ((regsOf x.list).map (s.blockValue x.f x.sb))).writeBack (x.writeBack s)).finish x.f
        (s.cfg.cost.stmBase + x.n) := by
  obtain ⟨hlist, hrn, huser, hbase⟩ := Block.refused_eq_false hrefused
  have hsb : (x.sb && x.w) = false := by simpa [Block.user, hstore] using huser
  have hlowest : (x.w && x.list.getLsbD x.rn.val && !lowestIs x.list x.rn) = false := by
    cases hin : x.list.getLsbD x.rn.val with
    | false => rw [Bool.and_false, Bool.false_and]
    | true =>
      rwa [hin, hstore, Bool.true_and, ← Bool.eq_iff_iff.2 ((lowestIs_iff hin).trans beq_iff_eq.symm)] at hbase
  simp only [blockStore, length_regsOf_list, blockStart_eq, blockFinal_eq, Block.ite_eq_writeBack, hlist, hrn, hsb, hlowest, ha,
    refuseIf_false]

/-- Settles O46: the stores reach memory word by word, and the write-back and the advance leave what they reached. -/
theorem blockStores : Obligations.BlockStores := by
  intro i c x s hm hi hstore hc hrefused ha v
  have hrn : x.rn ≠ 15 := by
    obtain ⟨-, hrn, -⟩ := Block.refused_eq_false hrefused
    simpa using hrn
  have huser : x.user = x.sb := by rw [Block.user, hstore, Bool.true_or, Bool.and_true]
  have hvalue : (regsOf x.list).map (s.blockValue x.f x.sb) = (regsOf x.list).map v := by
    refine List.map_congr_left fun r _ => ?_
    rw [State.blockValue]
    refine if_congr Iff.rfl rfl ?_
    rw [Block.phys, huser]
    cases x.sb <;> rfl
  have hlen : ((regsOf x.list).map v).length = x.n := by rw [List.length_map, length_regsOf_list]
  have hn : x.n ≤ 16 := (List.countP_le_length).trans (by simp)
  have hl := accessed_writeWords s (x.start s) ((regsOf x.list).map v)
  have hu := registersWritten_writeBack (s.writeWords (x.start s) ((regsOf x.list).map v))
    (Block.writeBack_reg_ne (x := x) (s := s) hrn)
  rw [writtenBack_congr hl.cpsr, Block.writtenBack_writeBack] at hu
  obtain ⟨hregs, hcpsr, hend, hsame⟩ := setRawPc_addCycles_frame hu x.f (s.cfg.cost.stmBase + x.n)
  have hmem := hsame.2.2.2.2.2.1
  rw [exec_of_blockOf hi, gate_of_passes _ hc, hstore, if_pos rfl, blockStore_eq hstore hrefused ha, hvalue]
  refine ⟨_, rfl, hl.sequential hend, fun hw => ?_, hl.regsBut hregs, hcpsr.trans hl.cpsr, hl.storedAs hsame,
    fun r hr k hk hram => ?_, fun b hb => ?_, QuietStore.of_restSame (fun hq => ?_) hsame⟩
  · rw [phys_addCycles, phys_setRawPc, if_neg (physOf_ne_pc hrn), Block.writeBack, if_pos hw, ← hl.physOf, phys_writeBack _ _ hrn]
  · rw [hmem]
    refine writeWords_read_same hm (by omega) ?_ hk hram
    rw [List.getElem?_map, getElem?_regsOf hr]
    rfl
  · rw [hmem, writeWords_eq]
    exact writeBytes_read_other s _ _ (by rwa [length_flatMap_splitBytes, hlen])
  · rw [writeWords_eq, writeBytes_quiet s _ _ (by rwa [length_flatMap_splitBytes, hlen])]
    simp

/-! ### Refusals -/

/-- An address that is not a multiple of the width is misaligned under the default policy (R73). -/
theorem misaligned_of_mod_ne {s : State} {w : Width} {a : Word} (hp : s.cfg.misalign = .refuse) (ha : a.toNat % w.bytes ≠ 0) :
    s.misaligned w a = true := by
  have hna : w.aligned a = false := by rwa [Bool.eq_false_iff, ne_eq, aligned_iff]
  rw [State.misaligned, hp, hna]
  rfl

theorem Access.width_eq {acc : Access} {w : Width} (h : acc = .store w ∨ ∃ k, acc = .load k ∧ k.width = w) : acc.width = w := by
  rcases h with rfl | ⟨k, rfl, rfl⟩ <;> rfl

/-- The refusals of the block transfers of both directions, in the order of R289. -/
theorem exists_block_eq_refuseIf (x : Block) (s : State) :
    ∃ k, (if x.store then blockStore x.f x.p x.u x.sb x.w x.rn x.list s else blockLoad x.f x.p x.u x.sb x.w x.rn x.list s) =
      refuseIf (x.list == 0) .emptyList (refuseIf (x.rn == 15) .baseR15 (refuseIf (x.user && x.w) .userBankWithWriteback
        (refuseIf (x.w && x.list.getLsbD x.rn.val && !(x.store && rankIn x.list x.rn.val == 0)) .baseInListWithWriteback
          (refuseIf (s.misaligned .word (x.start s)) .misaligned k)))) := by
  cases hstore : x.store with
  | false =>
    have huser : x.user = (x.sb && !x.list.getLsbD 15) := by rw [Block.user, hstore, Bool.false_or]
    rw [if_neg Bool.false_ne_true, blockLoad, huser, Bool.false_and, Bool.not_false, Bool.and_true]
    simp only [length_regsOf_list, blockStart_eq]
    exact ⟨_, rfl⟩
  | true =>
    have huser : x.user = x.sb := by rw [Block.user, hstore, Bool.true_or, Bool.and_true]
    have hlowest : (x.w && x.list.getLsbD x.rn.val && !(true && rankIn x.list x.rn.val == 0)) =
        (x.w && x.list.getLsbD x.rn.val && !lowestIs x.list x.rn) := by
      cases hin : x.list.getLsbD x.rn.val with
      | false => rw [Bool.and_false, Bool.false_and, Bool.false_and]
      | true => rw [Bool.true_and, Bool.eq_iff_iff.2 ((lowestIs_iff hin).trans beq_iff_eq.symm)]
    rw [if_pos rfl, blockStore, huser, hlowest]
    simp only [length_regsOf_list, blockStart_eq]
    exact ⟨_, rfl⟩

/-- Settles O57: each refusal stands before the transfer it refuses, in the order of its rule. -/
theorem refusedTransfers : Obligations.RefusedTransfers := by
  intro i s
  refine ⟨fun x hx hc => ⟨fun hrn => ?_, fun hrn w hw hp ha => ?_⟩, fun x hx w hw hp ha => ?_, fun c x hx hc => ?_, ?_⟩
  · have hrefused : (x.rn == 15 && x.wb) = true := by simpa using hrn
    rw [exec_of_singleOf hx, gate_of_passes _ hc, hrefused, refuseIf_true]
  · rw [exec_eq_transfer hx hc hrn]
    exact transfer_of_misaligned (misaligned_of_mod_ne hp (by rwa [Access.width_eq hw])) _ _ _ _
  · rw [exec_of_narrowSingleOf hx]
    exact transfer_of_misaligned (misaligned_of_mod_ne hp (by rwa [Access.width_eq hw])) _ _ _ _
  · obtain ⟨k, hk⟩ := exists_block_eq_refuseIf x s
    rw [exec_of_blockOf hx, gate_of_passes _ hc, hk]
    refine ⟨fun hlist => ?_, fun hlist hrn => ?_, fun hlist hrn huser hw => ?_, fun hlist hrn huser hw hin hrank => ?_,
      fun hrefused hp ha => ?_⟩
    · rw [beq_iff_eq.2 hlist, refuseIf_true]
    · rw [beq_eq_false_iff_ne.2 hlist, refuseIf_false, beq_iff_eq.2 hrn, refuseIf_true]
    · rw [beq_eq_false_iff_ne.2 hlist, refuseIf_false, beq_eq_false_iff_ne.2 hrn, refuseIf_false, huser, hw, Bool.and_self,
        refuseIf_true]
    · have hnot : (x.store && rankIn x.list x.rn.val == 0) = false := by simpa using hrank
      rw [beq_eq_false_iff_ne.2 hlist, refuseIf_false, beq_eq_false_iff_ne.2 hrn, refuseIf_false, huser, Bool.false_and,
        refuseIf_false, hnot, hw, hin, Bool.and_self, Bool.not_false, Bool.and_self, refuseIf_true]
    · obtain ⟨hlist, hrn, huser, hbase⟩ := Block.refused_eq_false hrefused
      simp only [hlist, hrn, huser, hbase, misaligned_of_mod_ne (w := .word) hp ha, refuseIf_false, refuseIf_true]
  · rintro c rn rd rm rfl hc hrn hrd hrm hp ha
    have hallowed : (rn == 15 || rd == 15 || rm == 15) = false := by simp [hrn, hrd, hrm]
    rw [exec, execSwp, swap, gate_of_passes _ hc, hallowed, refuseIf_false, misaligned_of_mod_ne hp ha, refuseIf_true]

theorem exceptionReturn_of_illegal {s : State} {e : ExcMode} (he : s.excMode = some e)
    (hm : Mode.ofBits (s.spsr.get e).m = none) (u : State) (v : Word) (cost : Nat) :
    s.exceptionReturn u v cost = .fault .illegalMode := by
  rw [State.exceptionReturn, State.restoreFault, he]
  simp [hm]

/-- Settles O58: both forms end in the return, which tests the restore in the state before it. -/
theorem refusedRestores : Obligations.RefusedRestores := by
  intro i s h
  obtain ⟨u, v, cost, hexec⟩ : ∃ u v cost, exec i s = s.exceptionReturn u v cost := by
    rcases h with ⟨op, c, rn, o, rfl, hc, hop, ho⟩ | ⟨c, x, hi, hc, hstore, hrefused, hsb, h15, ha⟩
    · exact ⟨_, _, _, (exec_dataProc op c true rn 15 o s).trans (dataProc_r15 hc hop ho)⟩
    · rw [exec_of_blockOf hi, gate_of_passes _ hc, hstore, if_neg Bool.false_ne_true,
        blockLoad_eq (Block.loads_of_not_refused hstore hrefused) ha, if_pos h15, if_pos hsb]
      exact ⟨_, _, _, rfl⟩
  rw [hexec]
  exact ⟨fun hm => exceptionReturn_of_no_spsr (hm.elim excMode_of_bits excMode_of_bits) u v cost,
    fun e he hm => exceptionReturn_of_illegal he hm u v cost⟩

end Sys2Proof.Machine
end

section
/-! PROOFS. The narrow formats 1 to 4, 12 and 13 beside their wide counterparts (48_narrow_formats_1_to_9.md,
49_narrow_formats_10_to_19.md R310 to R340, R377, R379, R380). Both compute one result from the same operands and end alike, so the
two next states differ in the advance of the program counter alone. -/

namespace Sys2Proof.Machine

open Sys2Proof

/-- A wide instruction does in `s` what a narrow one does, but for the advance of the program counter (R312). -/
def Twins (s : State) (wide narrow : Out) : Prop := ∃ t, wide = .next t ∧ narrow = .next { t with pc := s.pc + 2 }

theorem finish_twins {s u : State} (hpc : u.pc = s.pc) (cost : Nat) : Twins s (u.finish .wide cost) (u.finish .narrow cost) :=
  ⟨_, rfl, by rw [finish_eq, hpc]; rfl⟩

theorem setReg_pc_of_ne (s : State) {i : Reg} (v : Word) (hi : i ≠ 15) : (s.setReg i v).pc = s.pc :=
  setPhys_pc_of_ne s v (physOf_ne_pc hi)

/-! ### The operands -/

theorem rdOp_toReg (s : State) (f : Form) (r : LowReg) : s.rdOp f r.toReg = s.reg r.toReg := rdOp_of_ne s f (toReg_ne_15 r)

/-- A register shifted by no place is the register, with the carry flag as its carry-out (R163). -/
theorem shifter_lowReg (s : State) (r : LowReg) : s.shifter (.regImm 0 .lsl r.toReg) = ⟨s.reg r.toReg, s.cpsr.c⟩ := by
  rw [State.shifter, rdOp_toReg]
  rfl

theorem shifter_imm_zero (s : State) (imm8 : BitVec 8) : s.shifter (.imm 0 imm8) = ⟨zext imm8, s.cpsr.c⟩ := by
  rw [State.shifter, ← immOperand_zero imm8 s.cpsr.c]
  rfl

/-- A byte rotated right by 30 is four times the byte (R161). -/
theorem shifter_imm_fifteen (s : State) (imm8 : BitVec 8) : (s.shifter (.imm 15 imm8)).op2 = zext imm8 <<< 2 := by
  apply BitVec.eq_of_getLsbD_eq
  intro j hj
  have hrot : (s.shifter (.imm 15 imm8)).op2.getLsbD j = imm8.getLsbD ((j + 30) % 32) := (immediateOperand 15 imm8 s.cpsr.c).1 j hj
  rw [hrot, BitVec.getLsbD_shiftLeft, zext, BitVec.getLsbD_setWidth]
  by_cases h : j < 2
  · simp [h, BitVec.getLsbD_of_ge imm8 ((j + 30) % 32) (by omega)]
  · simp [h, hj, show (j + 30) % 32 = j - 2 by omega, show j - 2 < 32 by omega]

theorem zext_setWidth {k : Nat} (x : BitVec k) (h : k ≤ 8) : zext (x.setWidth 8) = zext x := by
  apply BitVec.eq_of_getLsbD_eq
  intro j hj
  simp only [zext, BitVec.getLsbD_setWidth, hj, decide_true, Bool.true_and]
  by_cases h8 : j < 8
  · rw [decide_eq_true h8, Bool.true_and]
  · rw [BitVec.getLsbD_of_ge x j (by omega), Bool.and_false]

theorem addWithCarry_not_true_r (a b : Word) : (addWithCarry a (~~~b) true).r = a - b := by
  apply BitVec.eq_of_toNat_eq
  rw [addWithCarry, BitVec.toNat_ofNat, BitVec.toNat_not, BitVec.toNat_sub, Bool.toNat_true]
  congr 1
  omega

/-! ### The results -/

/-- A data-processing instruction that sets flags and a narrow operation with the same result and flags. -/
theorem dataProc_twins {s : State} {op op' : AluOp} {rn rd : Reg} {o : Operand2} {a b : Word} {shc : Bool} {rd' : LowReg}
    {cost : Nat} (hrefused : operandRefused o rn rd = false) (hrd : compares op = false → rd = rd'.toReg)
    (hresult : aluResult op (s.rdOp .wide rn) (s.shifter o).op2 (s.shifter o).shc s.flags = aluResult op' a b shc s.flags)
    (hcompares : compares op' = compares op) (hcost : s.cfg.cost.dataProc + operandExtraCost o s.cfg.cost = cost) :
    Twins s (dataProc op .al true rn rd o s) (narrowAlu op' a b shc rd' cost s) := by
  rw [dataProc, gate_of_passes _ (passes_al s), hrefused, refuseIf_false, narrowAlu, hresult, hcompares, hcost]
  cases hop : compares op with
  | true => exact finish_twins rfl cost
  | false =>
    have h15 : rd'.toReg ≠ 15 := toReg_ne_15 rd'
    rw [hrd hop, if_neg Bool.false_ne_true, if_neg Bool.false_ne_true, if_neg h15]
    exact finish_twins (u := (s.setReg _ _).setFlags _) (setReg_pc_of_ne s _ h15) cost

theorem dataProc_reg_twins {op : AluOp} {rn rm rd' : LowReg} {rd : Reg} (hrd : compares op = false → rd = rd'.toReg) (s : State) :
    Twins s (dataProc op .al true rn.toReg rd (.regImm 0 .lsl rm.toReg) s)
      (narrowAlu op (s.reg rn.toReg) (s.reg rm.toReg) s.cpsr.c rd' s.cfg.cost.dataProc s) :=
  dataProc_twins rfl hrd (by rw [shifter_lowReg, rdOp_toReg]) rfl rfl

theorem dataProc_imm_twins {op : AluOp} {rn rd' : LowReg} {rd : Reg} (hrd : compares op = false → rd = rd'.toReg)
    (imm8 : BitVec 8) (s : State) :
    Twins s (dataProc op .al true rn.toReg rd (.imm 0 imm8) s)
      (narrowAlu op (s.reg rn.toReg) (zext imm8) s.cpsr.c rd' s.cfg.cost.dataProc s) :=
  dataProc_twins rfl hrd (by rw [shifter_imm_zero, rdOp_toReg]) rfl rfl

theorem dataProc_shift_twins (n : BitVec 5) (ty : ShiftType) (rs rd : LowReg) (s : State) :
    Twins s (dataProc .mov .al true 0 rd.toReg (.regImm n ty rs.toReg) s)
      (narrowAlu .mov 0 (shiftImm ty n (s.reg rs.toReg) s.cpsr.c).op2 (shiftImm ty n (s.reg rs.toReg) s.cpsr.c).shc rd
        s.cfg.cost.dataProc s) :=
  dataProc_twins rfl (fun _ => rfl) (by rw [State.shifter, rdOp_toReg]; rfl) rfl rfl

theorem dataProc_shiftReg_twins (ty : ShiftType) (rs rd : LowReg) (s : State) :
    Twins s (dataProc .mov .al true 0 rd.toReg (.regReg rs.toReg ty rd.toReg) s)
      (narrowAlu .mov 0 (shiftReg ty ((s.reg rs.toReg).setWidth 8) (s.reg rd.toReg) s.cpsr.c).op2
        (shiftReg ty ((s.reg rs.toReg).setWidth 8) (s.reg rd.toReg) s.cpsr.c).shc rd
        (s.cfg.cost.dataProc + s.cfg.cost.regShift) s) :=
  dataProc_twins (by simp [operandRefused, toReg_ne_15]) (fun _ => rfl) rfl rfl rfl

/-- The additions to and from sp, which set no flags (R377, R379, R380). -/
theorem dataProc_sp_twins {op : AluOp} (hop : compares op = false) {rd : Reg} (hrd : rd ≠ 15) (imm8 : BitVec 8) (s : State) :
    Twins s (dataProc op .al false 13 rd (.imm 15 imm8) s)
      ((s.setReg rd (aluResult op (s.reg 13) (zext imm8 <<< 2) (s.shifter (.imm 15 imm8)).shc s.flags).1).finish .narrow
        s.cfg.cost.dataProc) := by
  rw [dataProc, gate_of_passes _ (passes_al s), hop, if_neg Bool.false_ne_true, if_neg hrd, shifter_imm_fifteen,
    rdOp_of_ne s .wide (by decide)]
  exact finish_twins (setReg_pc_of_ne s _ hrd) _

/-- Settles O48: each pair computes one result from the same operands; an operation that ignores its first operand has it from
elsewhere in the two forms, and NEG is the reverse subtraction from 0. -/
theorem narrowDoesAsWide : Obligations.NarrowDoesAsWide := by
  intro i j s h
  show Twins s (exec j s) (exec i s)
  cases i
  case tAddReg | tSubReg | tAnd | tEor | tAdc | tSbc | tOrr | tBic =>
    obtain rfl := Option.some.inj h
    dsimp only [exec]
    exact dataProc_reg_twins (fun _ => rfl) s
  case tTst | tCmp | tCmn =>
    obtain rfl := Option.some.inj h
    dsimp only [exec]
    refine dataProc_reg_twins (fun h => ?_) s
    exact absurd h (by decide)
  case tMvn rs rd =>
    obtain rfl := Option.some.inj h
    exact dataProc_twins (op := .mvn) (op' := .mvn) (o := .regImm 0 .lsl rs.toReg) rfl (fun _ => rfl) (by rw [shifter_lowReg]; rfl)
      rfl rfl
  case tAddImm8 | tSubImm8 =>
    obtain rfl := Option.some.inj h
    dsimp only [exec]
    exact dataProc_imm_twins (fun _ => rfl) _ s
  case tCmpImm rd imm8 =>
    obtain rfl := Option.some.inj h
    exact dataProc_imm_twins (op := .cmp) (rd := 0) (rd' := rd) (fun h => absurd h (by decide)) imm8 s
  case tAddImm3 imm3 rs rd =>
    obtain rfl := Option.some.inj h
    have htwins := dataProc_imm_twins (op := .add) (rn := rs) (rd' := rd) (fun _ => rfl) (imm3.setWidth 8) s
    rwa [zext_setWidth imm3 (by decide)] at htwins
  case tSubImm3 imm3 rs rd =>
    obtain rfl := Option.some.inj h
    have htwins := dataProc_imm_twins (op := .sub) (rn := rs) (rd' := rd) (fun _ => rfl) (imm3.setWidth 8) s
    rwa [zext_setWidth imm3 (by decide)] at htwins
  case tMovImm rd imm8 =>
    obtain rfl := Option.some.inj h
    exact dataProc_twins (op := .mov) (op' := .mov) (o := .imm 0 imm8) rfl (fun _ => rfl) (by rw [shifter_imm_zero]; rfl) rfl rfl
  case tLslImm n rs rd =>
    obtain rfl := Option.some.inj h
    exact dataProc_shift_twins n .lsl rs rd s
  case tLsrImm n rs rd =>
    obtain rfl := Option.some.inj h
    exact dataProc_shift_twins n .lsr rs rd s
  case tAsrImm n rs rd =>
    obtain rfl := Option.some.inj h
    exact dataProc_shift_twins n .asr rs rd s
  case tLsl rs rd =>
    obtain rfl := Option.some.inj h
    exact dataProc_shiftReg_twins .lsl rs rd s
  case tLsr rs rd =>
    obtain rfl := Option.some.inj h
    exact dataProc_shiftReg_twins .lsr rs rd s
  case tAsr rs rd =>
    obtain rfl := Option.some.inj h
    exact dataProc_shiftReg_twins .asr rs rd s
  case tRor rs rd =>
    obtain rfl := Option.some.inj h
    exact dataProc_shiftReg_twins .ror rs rd s
  case tNeg rs rd =>
    obtain rfl := Option.some.inj h
    exact dataProc_twins (op := .rsb) (op' := .sub) (o := .imm 0 0) rfl (fun _ => rfl) (by rw [shifter_imm_zero, rdOp_toReg]; rfl)
      rfl rfl
  case tMul rs rd =>
    obtain rfl := Option.some.inj h
    have hallowed : (rd.toReg == 15 || rd.toReg == 15 || rs.toReg == 15) = false := by simp [toReg_ne_15]
    show Twins s (multiply (rd.toReg == 15 || rd.toReg == 15 || rs.toReg == 15) .al true rd.toReg _ 3 s) _
    rw [hallowed]
    exact finish_twins (u := (s.setReg _ _).setMulFlags _ _ _)
      ((setMulFlags_pc ..).trans (setReg_pc_of_ne s _ (toReg_ne_15 rd))) 3
  case tAddSp rd word8 =>
    obtain rfl := Option.some.inj h
    have htwins := dataProc_sp_twins (op := .add) rfl (toReg_ne_15 rd) word8 s
    rwa [aluResult, addWithCarry_false_r] at htwins
  case tAddSpImm sword7 =>
    obtain rfl := Option.some.inj h
    have htwins := dataProc_sp_twins (op := .add) (rd := 13) rfl (by decide) (sword7.setWidth 8) s
    rwa [aluResult, addWithCarry_false_r, zext_setWidth sword7 (by decide)] at htwins
  case tSubSpImm sword7 =>
    obtain rfl := Option.some.inj h
    have htwins := dataProc_sp_twins (op := .sub) (rd := 13) rfl (by decide) (sword7.setWidth 8) s
    rwa [aluResult, addWithCarry_not_true_r, zext_setWidth sword7 (by decide)] at htwins
  all_goals cases h

end Sys2Proof.Machine
end

section
/-! PROOFS. The snapshot port (70_reset_and_hazards.md R480 to R482): what a saved snapshot gives back, which snapshots are malformed,
and what a load restores. -/

namespace Sys2Proof.Machine

open Sys2Proof

/-! ### The fields of a snapshot -/

section

variable {x : Snapshot} {f : SnapshotField}

theorem Snapshot.bits_of_lookup {w : Nat} {v : BitVec w} (h : List.lookup f x = some (.bits w v)) (n : Nat) :
    x.bits n f = v.setWidth n := by
  rw [Snapshot.bits, h]

theorem Snapshot.bits_of_lookup_same {n : Nat} {v : BitVec n} (h : List.lookup f x = some (.bits n v)) : x.bits n f = v := by
  rw [bits_of_lookup h, BitVec.setWidth_eq]

theorem Snapshot.psr_of_lookup {v : Word} (h : List.lookup f x = some (.bits 32 v)) : x.psr f = Psr.ofWord v := by
  rw [Snapshot.psr, bits_of_lookup_same h]

theorem Snapshot.flag_of_lookup {v : BitVec 1} (h : List.lookup f x = some (.bits 1 v)) : x.flag f = v.getLsbD 0 := by
  rw [Snapshot.flag, bits_of_lookup_same h]

theorem Snapshot.number_of_lookup {n : Nat} (h : List.lookup f x = some (.number n)) : x.number f = n := by
  rw [Snapshot.number, h]

/-- A field has a bit from `lo` upwards when some bit of what it holds is set there. -/
theorem Snapshot.bitsFrom_iff (lo : Nat) : x.bitsFrom lo f = true ↔
    ∃ (w j : Nat) (v : BitVec w), List.lookup f x = some (.bits w v) ∧ lo ≤ j ∧ v.getLsbD j = true := by
  unfold Snapshot.bitsFrom
  split
  case h_1 w v h =>
    rw [bne_iff_ne, h]
    constructor
    · intro hne
      by_contra hno
      refine hne (BitVec.eq_of_getLsbD_eq fun j _ => ?_)
      rw [BitVec.getLsbD_ushiftRight, BitVec.ofNat_eq_ofNat, BitVec.getLsbD_zero]
      by_contra hj
      exact hno ⟨w, lo + j, v, rfl, Nat.le_add_right lo j, by simpa using hj⟩
    · rintro ⟨w', j, v', heq, hlo, hj⟩ hzero
      cases heq
      have hbit := congrArg (·.getLsbD (j - lo)) hzero
      simp [Nat.add_sub_cancel' hlo, hj] at hbit
  case h_2 h => simpa using fun w j v hv _ => absurd hv (h w v)

end

/-! ### A saved snapshot -/

theorem bits_saveState_reg (s : State) (p : PhysReg) : Snapshot.bits s.saveState 32 (.reg p) = s.phys p :=
  Snapshot.bits_of_lookup_same (lookup_saveState s (.reg p))

theorem psr_saveState_cpsr (s : State) : Snapshot.psr s.saveState .cpsr = s.cpsr :=
  (Snapshot.psr_of_lookup (lookup_saveState s .cpsr)).trans (Psr.ofWord_toWord s.cpsr)

theorem psr_saveState_spsr (s : State) (e : ExcMode) : Snapshot.psr s.saveState (.spsr e) = s.spsr.get e :=
  (Snapshot.psr_of_lookup (lookup_saveState s (.spsr e))).trans (Psr.ofWord_toWord _)

theorem flag_saveState {s : State} {f : SnapshotField} {b : Bool} (h : s.snapshotValue f = .bits 1 (BitVec.ofBool b)) :
    Snapshot.flag s.saveState f = b := by
  rw [Snapshot.flag_of_lookup ((lookup_saveState s f).trans (congrArg some h))]
  cases b <;> rfl

theorem regFile_saveState (s : State) : Snapshot.regFile s.saveState = s.regs := by
  have hbanked (copy : Bank → PhysReg) (r : Banked) (h : ∀ b, s.phys (copy b) = r.get b) :
      Snapshot.banked s.saveState copy = r := by
    simp only [Snapshot.banked, bits_saveState_reg, h]
    rfl
  simp only [Snapshot.regFile, bits_saveState_reg, hbanked .sp s.regs.sp fun _ => rfl, hbanked .lr s.regs.lr fun _ => rfl,
    State.phys, Fin.getElem_fin, Vector.ofFn_getElem]

/-- The state after a load of a saved snapshot (R480). -/
theorem restoreFrom_saveState (s u : State) :
    u.restoreFrom s.saveState = { s with mem := u.mem, cfg := u.cfg, draws := u.draws, bus := u.bus } := by
  have hspsr : Snapshot.spsrFile s.saveState = s.spsr := by
    simp only [Snapshot.spsrFile, psr_saveState_spsr]
    rfl
  have hcycles : Snapshot.number s.saveState .cycles = s.cycles := Snapshot.number_of_lookup (lookup_saveState s .cycles)
  have hmask {f : SnapshotField} {v : BitVec 14} (h : s.snapshotValue f = .bits 14 v) : Snapshot.bits s.saveState 14 f = v :=
    Snapshot.bits_of_lookup_same ((lookup_saveState s f).trans (congrArg some h))
  rw [State.restoreFrom, regFile_saveState, bits_saveState_reg, psr_saveState_cpsr, hspsr, hcycles, hmask (f := .ie) rfl,
    hmask (f := .ifr) rfl, flag_saveState (f := .ime) rfl, flag_saveState (f := .halted) rfl]
  rfl

/-- The mode, T and the flags of a status word are its bits. -/
theorem Snapshot.m_psr (x : Snapshot) : (x.psr .cpsr).m = (x.bits 32 .cpsr).extractLsb' 0 5 := rfl

theorem Snapshot.t_psr (x : Snapshot) : (x.psr .cpsr).t = (x.bits 32 .cpsr).getLsbD 5 := rfl

/-- A saved snapshot of a state with a legal mode and an aligned program counter can be loaded (R481). -/
theorem wellFormed_saveState {s : State} (hm : s.modeLegal) (hpc : s.pcAligned) : Snapshot.wellFormed s.saveState = true := by
  have hmode : Snapshot.bits s.saveState 5 .mode = s.cpsr.m := Snapshot.bits_of_lookup_same (lookup_saveState s .mode)
  have hmask {f : SnapshotField} {v : BitVec 14} (h : s.snapshotValue f = .bits 14 v) :
      Snapshot.bitsFrom s.saveState 14 f = false := by
    simp [Snapshot.bitsFrom, lookup_saveState, h, BitVec.ushiftRight_eq_zero (Nat.le_refl 14)]
  have hall : SnapshotField.all.all (Snapshot.holds s.saveState) = true := by simp
  rw [State.modeLegal] at hm
  rw [State.pcAligned] at hpc
  simp [Snapshot.wellFormed, hall, psr_saveState_cpsr, hm, hmode, flag_saveState (s := s) (f := .instructionWidthFlag) rfl,
    hmask (f := .ie) rfl, hmask (f := .ifr) rfl, bits_saveState_reg, State.phys, hpc]

/-! ### Malformed snapshots -/

/-- Some field is missing or has a wrong width (R481), said field by field. -/
theorem exists_not_holds_iff (x : Snapshot) : (∃ f, x.holds f = false) ↔
    (∃ p, ∀ v : BitVec 32, List.lookup (.reg p) x ≠ some (.bits 32 v)) ∨
      (∀ v : BitVec 32, List.lookup .cpsr x ≠ some (.bits 32 v)) ∨
      (∃ e, ∀ v : BitVec 32, List.lookup (.spsr e) x ≠ some (.bits 32 v)) ∨
      (∀ v : BitVec 5, List.lookup .mode x ≠ some (.bits 5 v)) ∨
      (∀ n : Nat, List.lookup .cycles x ≠ some (.number n)) ∨
      (∃ f ∈ [SnapshotField.instructionWidthFlag, .ime, .halted], ∀ v : BitVec 1, List.lookup f x ≠ some (.bits 1 v)) ∨
      (∃ f ∈ [SnapshotField.ie, .ifr], ∀ (w : Nat) (v : BitVec w), 14 ≤ w → List.lookup f x ≠ some (.bits w v)) := by
  have hbits {f : SnapshotField} {n : Nat} (hf : ∀ w, f.hasWidth w = (w == n)) (hc : f ≠ .cycles) :
      x.holds f = false ↔ ∀ v : BitVec n, List.lookup f x ≠ some (.bits n v) := by
    rw [← Bool.not_eq_true, holds_bits_iff hf hc, not_exists]
  have hmask {f : SnapshotField} (hf : f = .ie ∨ f = .ifr) :
      x.holds f = false ↔ ∀ (w : Nat) (v : BitVec w), 14 ≤ w → List.lookup f x ≠ some (.bits w v) := by
    rw [← Bool.not_eq_true, holds_mask_iff hf]
    push Not
    rfl
  have hcycles : x.holds .cycles = false ↔ ∀ n, List.lookup .cycles x ≠ some (.number n) := by
    rw [← Bool.not_eq_true, holds_cycles_iff, not_exists]
  have hreg (p : PhysReg) := hbits (f := .reg p) (fun _ => rfl) nofun
  have hspsr (e : ExcMode) := hbits (f := .spsr e) (fun _ => rfl) nofun
  simp only [List.mem_cons, List.not_mem_nil, or_false, exists_eq_or_imp, exists_eq_left, ← hreg, ← hspsr, ← hcycles,
    ← hbits (f := .cpsr) (fun _ => rfl) nofun, ← hbits (f := .mode) (fun _ => rfl) nofun,
    ← hbits (f := .instructionWidthFlag) (fun _ => rfl) nofun, ← hbits (f := .ime) (fun _ => rfl) nofun,
    ← hbits (f := .halted) (fun _ => rfl) nofun, ← hmask (.inl rfl), ← hmask (.inr rfl)]
  constructor
  · rintro ⟨f, hf⟩
    cases f <;> simp_all
    · exact .inl ⟨_, hf⟩
    · exact .inr (.inr (.inl ⟨_, hf⟩))
  · rintro (⟨p, h⟩ | h | ⟨e, h⟩ | h | h | (h | h | h) | h | h) <;> exact ⟨_, h⟩

/-- Which snapshots are malformed (R481). -/
theorem wellFormed_eq_false_iff (x : Snapshot) : x.wellFormed = false ↔
    (∃ f, x.holds f = false) ∨ (x.bitsFrom 14 .ie = true ∨ x.bitsFrom 14 .ifr = true) ∨
      Mode.ofBits ((x.bits 32 .cpsr).extractLsb' 0 5) = none ∨
      x.bits 5 .mode ≠ (x.bits 32 .cpsr).extractLsb' 0 5 ∨
      x.bits 1 .instructionWidthFlag ≠ (x.bits 32 .cpsr).extractLsb' 5 1 ∨
      (x.bits 32 (.reg .pc)).toNat % (if (x.bits 32 .cpsr).getLsbD 5 then 2 else 4) ≠ 0 := by
  have hall : SnapshotField.all.all x.holds = false ↔ ∃ f, x.holds f = false := by
    simp [List.all_eq_false, SnapshotField.mem_all]
  have hflag : x.flag .instructionWidthFlag = (x.bits 32 .cpsr).getLsbD 5 ↔
      x.bits 1 .instructionWidthFlag = (x.bits 32 .cpsr).extractLsb' 5 1 := by
    rw [Snapshot.flag, BitVec.eq_of_getLsbD_eq_iff]
    simp
  have hpc := alignPc_eq_iff ((x.bits 32 .cpsr).getLsbD 5) (x.bits 32 (.reg .pc))
  simp only [Snapshot.wellFormed, Bool.and_eq_false_iff, hall, Snapshot.m_psr, Snapshot.t_psr, Bool.not_eq_false',
    beq_eq_false_iff_ne, ne_eq, hflag, hpc, Option.isSome_eq_false_iff, Option.isNone_iff_eq_none]
  tauto

/-- Settles O59: the first part is `restoreFrom_saveState`, the second `wellFormed_eq_false_iff`, and in the third every field of
the state loaded is what the snapshot holds for it. -/
theorem snapshots : Obligations.Snapshots := by
  refine ⟨fun s u hm hpc => ?_, fun s x => ?_, fun s t x h => ?_⟩
  · rw [loadState_eq_ok.2 ⟨wellFormed_saveState hm hpc, rfl⟩, restoreFrom_saveState]
  · rw [loadState_eq_error, wellFormed_eq_false_iff, exists_not_holds_iff, Snapshot.bitsFrom_iff, Snapshot.bitsFrom_iff]
    simp only [List.mem_cons, List.not_mem_nil, or_false, exists_eq_or_imp, exists_eq_left, or_assoc]
  · obtain ⟨-, rfl⟩ := loadState_eq_ok.1 h
    have hflag {f : SnapshotField} {v : BitVec 1} (h : List.lookup f x = some (.bits 1 v)) : BitVec.ofBool (x.flag f) = v := by
      rw [Snapshot.flag_of_lookup h]
      exact (BitVec.eq_of_getLsbD_eq (by simp))
    refine ⟨fun p v h => ?_, fun v h => ?_, fun e v h => ?_, fun n h => Snapshot.number_of_lookup h,
      fun w v h => Snapshot.bits_of_lookup h 14, fun w v h => Snapshot.bits_of_lookup h 14, fun v h => hflag h,
      fun v h => hflag h, rfl, rfl, rfl, rfl⟩
    · rw [phys_restoreFrom, Snapshot.bits_of_lookup_same h]
    · exact (congrArg Psr.toWord (Snapshot.psr_of_lookup h)).trans (Psr.toWord_ofWord v)
    · rw [spsr_restoreFrom, Snapshot.psr_of_lookup h, Psr.toWord_ofWord]

end Sys2Proof.Machine
end
